-- ==== Sys2Proof/Word.lean ====
section
/-! DEFINITION. The word types of CDB (spec 00_scope.md R7): every datum is an unsigned byte, a request
word has 16 bits, and a payload index or display address has 4. -/

namespace Sys2Proof

/-- A data byte: all data values of CDB are unsigned bytes unless a width is stated (R7). -/
abbrev Byte := BitVec 8

/-- A request word, `REQ_BITS` = 16 (R6, R60). -/
abbrev Word := BitVec 16

/-- A 4-bit field: an op code, a payload cell index or a display address (R60). -/
abbrev Nibble := BitVec 4

end Sys2Proof
end

