-- ==== Sys2Proof/Config.lean ====
section
/-! DEFINITION. What is fixed for one CDB (spec 00_scope.md R6) and what the spec leaves to the outside
world (10_state.md R28): the receive variants, the input ports, and the free values. The parameters with a
value (the segment table and the rest) are in Machine/Params.lean. -/

namespace Sys2Proof

/-- `RX_VARIANT`, how received bits are assembled (R6, decision D13, entry U6). -/
inductive RxVariant where
  /-- The alternative of U6: bit k of a slot is drawn k-th, slots are joined by left shifts. -/
  | a
  /-- The spec's choice: left shift-and-OR, union of right-shifted slots. -/
  | b
  deriving DecidableEq, Repr

/-- What the world outside does at one rising edge of `clk` (R10, R25, R185).

* `rst`: the level of the reset port;
* `tick`: the level of the engine step enable;
* `present`: the host asserts `req_valid` with the oldest word it has not yet had accepted;
* `giveUp`: the host withdraws that word if this edge does not accept it (R61, R185);
* `dio`: the level of the data pin, what `DrawBit()` answers at this edge (R8). -/
structure EdgeInput where
  rst : Bool
  tick : Bool
  present : Bool
  giveUp : Bool
  dio : Bool
  deriving DecidableEq, Repr, Inhabited

/-- FREE VALUE (log entry 1). The input levels at the edges that `State.env` does not list, numbered by
`State.edge`. It has no body, so every statement holds for every environment (R28, U1, D27). -/
opaque Config.freeEdge : Nat → EdgeInput

/-- FREE VALUE (log entry 16). One less than the open parameter `T_HALF`, which is a positive duration
(R6, R182, D3). No rule reads it. -/
opaque Config.tHalfPred : Nat

/-- `T_HALF`, the positive time between two ticks in an unstated unit (R6, R182). No rule reads it. -/
def Config.tHalf : Nat := Config.tHalfPred + 1

end Sys2Proof
end

