-- ==== Sys2Proof/Machine/Params.lean ====
section
/-! DEFINITION. The parameters of CDB that have a value (spec 00_scope.md R6): the receive variant, the
segment table (41_segment_encoder.md R110), the wire command bytes (R65), the counts, the reset bytes. They
stand here, and not in Config.lean, because the spec tells a model to treat its literals as configuration
that a comparison with the firmware may correct (R3). -/

namespace Sys2Proof

/-- `RX_VARIANT = B` (R6). -/
def Config.rxVariant : RxVariant := .b

/-- `SEG_TABLE`, the 16 bytes `T[0]` to `T[15]` of R110. -/
def Config.segTable : List Byte :=
  [0x3F, 0x06, 0x5B, 0x4F, 0x66, 0x6D, 0x7D, 0x07,
   0x7F, 0x6F, 0x77, 0x7C, 0x39, 0x5E, 0x79, 0x71]

/-- The brightness command without its brightness, 0x88 (R65). -/
def Config.cmdDisplay : Byte := 0x88

/-- The bulk write command byte, 0x40 (R65). -/
def Config.cmdWriteAuto : Byte := 0x40

/-- The button read command byte, 0x42 (R65). -/
def Config.cmdRead : Byte := 0x42

/-- The single-address write command byte, 0x44 (R65). -/
def Config.cmdWriteFixed : Byte := 0x44

/-- The wire address byte of display address 0, 0xC0 (R65, R66). -/
def Config.addrBase : Byte := 0xC0

/-- `NCELLS`, the number of payload cells (R6, R24). -/
def Config.nCells : Nat := 16

/-- `RX_SLOTS`, the number of address slots of a button read (R6). -/
def Config.rxSlots : Nat := 4

/-- `LAST_RESET`, the reset value of the edge tracker's byte (R6, R27). -/
def Config.lastReset : Byte := 0x00

/-- What a payload cell that nothing has written since reset holds (R27, R85). -/
def Config.unlistedByte : Byte := 0x00

/-- The host's blink half-period in milliseconds (R137). -/
def Config.blinkHalf : Nat := 500

end Sys2Proof
end

