-- ==== Sys2Proof/Syntax.lean ====
section
/-! DEFINITION. The instructions of CDB, one constructor per row of spec/opcode_table.json: the eight
requests of 30_encoding.md R62 and the five wire bytes of R65 that the transport engine sends. -/

namespace Sys2Proof

/-- The rows of the opcode table. The first eight are requests (16-bit words taken on the host port), the
last five are the wire bytes (8 bits) that the engine transmits at the head of a transaction. -/
inductive Instr where
  /-- INIT, configure the lines (R84). -/
  | init
  /-- SCMD c, send one command byte (R88). -/
  | scmd (c : Byte)
  /-- LDP i, v, load one payload cell (R85). -/
  | ldp (i : Nibble) (v : Byte)
  /-- SBULK a, n, bulk write of cells 0 to n-1 from display address a (R89). -/
  | sbulk (a : Nibble) (n : Byte)
  /-- SWR1 a, v, single-address write (R90). -/
  | swr1 (a : Nibble) (v : Byte)
  /-- RDBTN, button read (R91). -/
  | rdbtn
  /-- ENC v, encode a digit (R112). -/
  | enc (v : Byte)
  /-- SMP c, one button sample (R121). -/
  | smp (c : Byte)
  /-- W_DISPLAY, enable the display with brightness b (R65). -/
  | wDisplay (b : BitVec 3)
  /-- W_WRITE_AUTO, the first byte of a bulk write (R65). -/
  | wWriteAuto
  /-- W_READ, the transmitted byte of a button read (R65). -/
  | wRead
  /-- W_WRITE_FIXED, the first byte of a single-address write (R65). -/
  | wWriteFixed
  /-- W_ADDR, the wire address byte (R65, R66). -/
  | wAddr (a : Nibble)
  deriving DecidableEq, Repr

end Sys2Proof
end

