-- ==== Sys2Proof/WellFormed.lean ====
section
/-! DEFINITION. Which terms of `Instr` some word of the hardware spells: all of them but an SBULK whose
count is over 16 (30_encoding.md R62, R64). -/

namespace Sys2Proof

/-- The constraint column of the opcode map (R62): `n <= 16` for SBULK, nothing elsewhere. The operand
widths are carried by the types. -/
def Instr.wellFormed : Instr → Bool
  | .init => true
  | .scmd _ => true
  | .ldp _ _ => true
  | .sbulk _ n => decide (n.toNat ≤ 16)
  | .swr1 _ _ => true
  | .rdbtn => true
  | .enc _ => true
  | .smp _ => true
  | .wDisplay _ => true
  | .wWriteAuto => true
  | .wRead => true
  | .wWriteFixed => true
  | .wAddr _ => true

end Sys2Proof
end

