-- ==== Sys2Proof/Decode.lean ====
section
/-! DEFINITION. Decoding of request words (30_encoding.md R60 to R64) and of wire bytes (R65, R66), total
and rejecting by name, and the encoder written from the same formats. -/

namespace Sys2Proof

/-- The two encodings of 30_encoding.md: a request is one 16-bit parallel word, a wire byte is 8 bits. -/
inductive Code where
  | request (w : Word)
  | wire (b : Byte)
  deriving DecidableEq, Repr

/-- Why a word is no instruction. The first three are the ways R64 makes a request word illegal. -/
inductive Illegal where
  /-- `op` is 0x0 or 0x9 to 0xF (R64). -/
  | unknownOp
  /-- a must-be-zero bit of format Z or I is set (R60, R64). -/
  | nonZeroBits
  /-- SBULK with a count over 16 (R64). -/
  | countOver16
  /-- the byte is none of the wire command bytes of R65. -/
  | noWireCommand
  deriving DecidableEq, Repr

/-- Field `op`, bits 15 to 12 (R60). -/
def opField (w : Word) : Nibble := w.extractLsb' 12 4

/-- Field `x`, bits 11 to 8 (R60, R63). -/
def xField (w : Word) : Nibble := w.extractLsb' 8 4

/-- Field `imm8`, bits 7 to 0 (R60, R63). -/
def immField (w : Word) : Byte := w.extractLsb' 0 8

/-- The opcode map (R62) with R64's rejections. -/
def decodeRequest (w : Word) : Except Illegal Instr :=
  match (opField w).toNat with
  | 1 => if xField w = 0 ∧ immField w = 0 then .ok .init else .error .nonZeroBits
  | 2 => if xField w = 0 then .ok (.scmd (immField w)) else .error .nonZeroBits
  | 3 => .ok (.ldp (xField w) (immField w))
  | 4 => if (immField w).toNat ≤ 16 then .ok (.sbulk (xField w) (immField w)) else .error .countOver16
  | 5 => .ok (.swr1 (xField w) (immField w))
  | 6 => if xField w = 0 ∧ immField w = 0 then .ok .rdbtn else .error .nonZeroBits
  | 7 => if xField w = 0 then .ok (.enc (immField w)) else .error .nonZeroBits
  | 8 => if xField w = 0 then .ok (.smp (immField w)) else .error .nonZeroBits
  | _ => .error .unknownOp

/-- The wire command bytes (R65, R66). -/
def decodeWire (b : Byte) : Except Illegal Instr :=
  if b = Config.cmdWriteAuto then .ok .wWriteAuto
  else if b = Config.cmdRead then .ok .wRead
  else if b = Config.cmdWriteFixed then .ok .wWriteFixed
  else if b &&& 0xF8 = Config.cmdDisplay then .ok (.wDisplay (b.extractLsb' 0 3))
  else if b &&& 0xF0 = Config.addrBase then .ok (.wAddr (b.extractLsb' 0 4))
  else .error .noWireCommand

/-- Decoding of either encoding. -/
def decode : Code → Except Illegal Instr
  | .request w => decodeRequest w
  | .wire b => decodeWire b

/-- A word of any format, `(op << 12) | (x << 8) | imm8` (R60, R68). -/
def requestWord (op x : Nibble) (imm : Byte) : Word :=
  (op.setWidth 16 <<< 12) ||| (x.setWidth 16 <<< 8) ||| imm.setWidth 16

/-- `0x88 | (brightness & 0x07)` (R65). -/
def displayByte (b : BitVec 3) : Byte := Config.cmdDisplay ||| b.setWidth 8

/-- The wire address byte, `0xC0 | a` (R66). -/
def addrByte (a : Nibble) : Byte := Config.addrBase ||| a.setWidth 8

/-- The encoder: the syntax table of R68 for requests, the bit patterns of R65 for wire bytes. -/
def encode : Instr → Code
  | .init => .request (requestWord 1 0 0)
  | .scmd c => .request (requestWord 2 0 c)
  | .ldp i v => .request (requestWord 3 i v)
  | .sbulk a n => .request (requestWord 4 a n)
  | .swr1 a v => .request (requestWord 5 a v)
  | .rdbtn => .request (requestWord 6 0 0)
  | .enc v => .request (requestWord 7 0 v)
  | .smp c => .request (requestWord 8 0 c)
  | .wDisplay b => .wire (displayByte b)
  | .wWriteAuto => .wire Config.cmdWriteAuto
  | .wRead => .wire Config.cmdRead
  | .wWriteFixed => .wire Config.cmdWriteFixed
  | .wAddr a => .wire (addrByte a)

/-- An answer of the decoder without the name of the rejection. -/
def accepted : Except Illegal Instr → Option Instr
  | .ok i => some i
  | .error _ => none

/-- The decoder on the opcode table's numbering: a row of 16 bits is a request word, a row of 8 bits a
wire byte, and there is no other length (R60, R65). -/
def decodeTableWord (nbits w : Nat) : Option Instr :=
  if nbits = 16 then accepted (decodeRequest (BitVec.ofNat 16 w))
  else if nbits = 8 then accepted (decodeWire (BitVec.ofNat 8 w))
  else none

end Sys2Proof
end

