-- ==== Sys2Proof/Machine/State.lean ====
section
/-! DEFINITION. The state of CDB (10_state.md R11 to R27), the host's pending requests and the input levels
to come (R10, R25, R28), and the pin trace (00_scope.md R9), all as plain data; the reasons a step can
stop; the state after reset. -/

namespace Sys2Proof.Machine

/-- `PH`, the phase of the transport engine (R20). -/
inductive Phase where
  | idle
  | stbFall
  | tx
  | dirIn
  | rx
  | dirOut
  | stbRise
  deriving DecidableEq, Repr

/-- `SEQ = (PH, IX, HS)`, the sequencer position (R20): phase, byte or slot index, half-step. -/
structure Seq where
  ph : Phase
  ix : BitVec 5
  hs : BitVec 4
  deriving DecidableEq, Repr

/-- The values of `FLT` (R22, R159). Code 3 is never produced, so it has no name (U8). -/
inductive FaultCode where
  | none
  | illegalRequest
  | notConfigured
  deriving DecidableEq, Repr

/-- One entry of the pin trace: the latches after an engine step and, for a sampling half-step, the bit
drawn (R9). -/
structure PinEntry where
  stb : Bool
  clk : Bool
  dir : Bool
  dioOut : Bool
  drawn : Option Bool
  deriving DecidableEq, Repr

/-- Why a step of the model stops with a fault. The faults of the hardware are not here: they are values
of `FLT`, taken as next states (60_exceptions.md R153). -/
inductive Fault where
  /-- Raised by the engine when `BUSY = 1` and `SEQ` names no step of the request in `IR`, for which R20
  gives no transition (log entry 6). Safe: the model stops; no state that meets the invariant is such. -/
  | sequencerLost
  deriving DecidableEq, Repr

/-- Why the model gives an instruction no meaning. -/
inductive Refusal where
  /-- Raised by an arm of `exec` that has no meaning yet; no arm is such. Safe. -/
  | notModelled (mnemonic : String)
  /-- Raised by the meaning of a wire byte when the engine is not transmitting: TxByte "only runs inside
  a strobe window" (R69, R86, N19; log entry 5). Safe: no step of the machine reaches it. -/
  | wireByteOutsideTransmission
  deriving DecidableEq, Repr

/-- Everything the spec gives the machine, and the environment the model runs it in. -/
structure State where
  /-- `RES[7:0]`, the result register (R11). -/
  res : Byte
  /-- `LAST[7:0]`, the edge tracker's persisted byte (R12). -/
  last : Byte
  /-- `ACC[7:0]`, the receive accumulator (R13). -/
  acc : Byte
  /-- `BTN[7:0]`, the button union (R14). -/
  btn : Byte
  /-- `IR[15:0]`, the request register (R15). -/
  ir : Word
  /-- `STB`, the strobe latch; true is 1, the idle level (R16). -/
  stb : Bool
  /-- `CLK`, the clock latch (R17). -/
  clk : Bool
  /-- `DIO_OUT`, the data output latch (R18). -/
  dioOut : Bool
  /-- `DIR`, the data direction; true is 1, output (R18). -/
  dir : Bool
  /-- `CFG`, lines configured (R19). -/
  cfg : Bool
  /-- `SEQ`, the sequencer position (R20). -/
  seq : Seq
  /-- `BUSY` (R21). -/
  busy : Bool
  /-- `FLT[1:0]`, the sticky fault field (R22). -/
  flt : FaultCode
  /-- `PAY[0..15]`, the payload store, in canonical form (R24; log entry 10). -/
  pay : List Host.Cell
  /-- The host agent: the request words it has still to have accepted, oldest first (R10, R183; the
  model's own field, log entry 2). -/
  requests : List Word
  /-- The request words the host has given up without an acceptance, oldest first (R61, R183, R185; the
  model's own field, log entry 2). -/
  givenUp : List Word
  /-- The environment: the input levels at the coming clock edges, next first (R25, R28; the model's own
  field, log entry 1). -/
  env : List EdgeInput
  /-- How many edges beyond those listed in `env` have passed: the index of the next free input level
  (the model's own field, log entry 1). -/
  edge : Nat
  /-- The pin trace, oldest entry first (R9; an observation, log entry 3). -/
  trace : List PinEntry
  deriving DecidableEq, Repr

/-- The reset state (R27, R170), with nothing listed for the host, the environment and the trace (log
entry 4). -/
def State.reset : State where
  res := 0x00
  last := Config.lastReset
  acc := 0x00
  btn := 0x00
  ir := 0x0000
  stb := true
  clk := true
  dioOut := false
  dir := true
  cfg := false
  seq := ⟨.idle, 0, 0⟩
  busy := false
  flt := .none
  pay := []
  requests := []
  givenUp := []
  env := []
  edge := 0
  trace := []

end Sys2Proof.Machine
end

