-- ==== Sys2Proof/Machine/Flags.lean ====
section
/-! DEFINITION. The flags and the output ports computed from the state: `STATUS`, `req_ready`, the pin
values and enables (10_state.md R18, R19, R21 to R23, R25). -/

namespace Sys2Proof.Machine

/-- The two bits of `FLT` (R22, R159). -/
def FaultCode.bits : FaultCode → BitVec 2
  | .none => 0
  | .illegalRequest => 1
  | .notConfigured => 2

/-- `STATUS`: bit 0 `BUSY`, bit 1 `CFG`, bits 3:2 `FLT`, bits 7:4 zero (R23). -/
def State.status (s : State) : Byte :=
  (0 : BitVec 4) ++ s.flt.bits ++ BitVec.ofBool s.cfg ++ BitVec.ofBool s.busy

/-- `req_ready = (BUSY = 0) and (FLT = 0)` (R25). -/
def State.ready (s : State) : Bool := !s.busy && s.flt == .none

/-- The output ports of CDB (R25). An `Oe` port is the driver enable of its pin. -/
structure Outputs where
  reqReady : Bool
  res : Byte
  status : Byte
  ir : Word
  stbO : Bool
  stbOe : Bool
  clkO : Bool
  clkOe : Bool
  dioO : Bool
  dioOe : Bool
  deriving DecidableEq, Repr

/-- What the ports show in a state; reading them changes nothing (R25, R45). -/
def State.outputs (s : State) : Outputs where
  reqReady := s.ready
  res := s.res
  status := s.status
  ir := s.ir
  stbO := s.stb
  stbOe := s.cfg
  clkO := s.clk
  clkOe := s.cfg
  dioO := s.dioOut
  dioOe := s.cfg && s.dir

end Sys2Proof.Machine
end

