-- ==== Sys2Proof/Machine/Memory.lean ====
section
/-! DEFINITION. The payload store as a list of cells in one canonical form, and its two accesses
(`MemRead`, `MemWrite` of 00_scope.md R8; 10_state.md R24, 20_memory.md R40, R44). -/

namespace Sys2Proof.Machine

/-- `MemRead(i, 1)`: an unlisted cell holds what reset left in it (R8, R27). -/
def Memory.read : List Host.Cell → Nat → Byte
  | [], _ => Config.unlistedByte
  | (a, v) :: m, i => if a = i then v else Memory.read m i

/-- `MemWrite(i, 1, v)`, keeping the canonical form: the entry goes where its index belongs, and writing
what an unlisted cell holds removes it (R8). -/
def Memory.write : List Host.Cell → Nat → Byte → List Host.Cell
  | [], i, v => if v = Config.unlistedByte then [] else [(i, v)]
  | (a, w) :: m, i, v =>
    if i < a then if v = Config.unlistedByte then (a, w) :: m else (i, v) :: (a, w) :: m
    else if i = a then if v = Config.unlistedByte then m else (i, v) :: m
    else (a, w) :: Memory.write m i v

/-- The canonical form: indices strictly rising, every index one of the 16 cells, no entry equal to what
an unlisted cell holds. -/
abbrev Memory.wf (m : List Host.Cell) : Prop :=
  m.Pairwise (fun a b => a.1 < b.1) ∧
    ∀ c ∈ m, c.1 < Config.nCells ∧ c.2 ≠ Config.unlistedByte

end Sys2Proof.Machine
end

