-- ==== Sys2Proof/Machine/Operands.lean ====
section
/-! DEFINITION. Operand forms: the operand of ENC as an integer (30_encoding.md R63), the segment table
(R110), the byte at each position of a transaction (R88 to R91), the assembly of received bits (R92, U6),
and the number of engine steps (R96, R182). -/

namespace Sys2Proof.Machine

/-- `sext_8`, the operand of ENC as an integer in -128..127 (R7, R63). -/
def sext8 (v : Byte) : Int := v.toInt

/-- `T[d]`, the segment byte of a digit (R110). -/
def segByte (d : Nibble) : Byte := Config.segTable.getD d.toNat 0x00

/-- The result of ENC: the table for 0..15, the table with the point for 16..31, blank otherwise (R112). -/
def segEncode (v : Byte) : Byte :=
  let x := sext8 v
  if 0 ≤ x ∧ x ≤ 15 then segByte (BitVec.ofInt 4 x)
  else if 16 ≤ x ∧ x ≤ 31 then segByte (BitVec.ofInt 4 (x - 16)) ||| 0x80
  else 0x00

/-- What a byte shows as a glyph of SEG (R114). -/
inductive Glyph where
  | digit (d : Nibble) (point : Bool)
  | blank
  | noGlyph
  deriving DecidableEq, Repr

/-- The digit whose table byte is `t`, looked for from the digit `d` upwards. -/
def digitOf (t : Byte) : List Byte → Nat → Option Nibble
  | [], _ => none
  | g :: gs, d => if g = t then some (BitVec.ofNat 4 d) else digitOf t gs (d + 1)

/-- A glyph byte read back: `g & 0x7F = T[d]` is the digit d with the point `g[7]`, 0x00 is blank, anything
else is no glyph (R114). -/
def glyphOf (g : Byte) : Glyph :=
  if g = 0x00 then .blank
  else match digitOf (g &&& 0x7F) Config.segTable 0 with
    | some d => .digit d (g.getLsbD 7)
    | none => .noGlyph

/-- The release-edge mask of two consecutive samples (R121). -/
def releasedMask (prev curr : Byte) : Byte :=
  let changes := curr ^^^ prev
  changes &&& ~~~curr

/-- The wire byte an instruction of the wire encoding stands for; `none` for a request. -/
def wireByte (i : Instr) : Option Byte :=
  match encode i with
  | .request _ => none
  | .wire b => some b

/-- What stands at one byte position of a transaction: one of the wire command bytes of R65, or a byte
that is not named there (a data byte, or an SCMD operand without a documented use, R67). -/
inductive TxItem where
  | command (i : Instr)
  | data (v : Byte)
  deriving DecidableEq, Repr

/-- The operand of SCMD as a transmitted byte: any byte is sent (R67). -/
def commandItem (c : Byte) : TxItem :=
  match decodeWire c with
  | .ok i => .command i
  | .error _ => .data c

/-- The byte at index `ix` of the transaction of a request: command byte, then address byte, then data in
rising payload index (R43, R88, R89, R90, R91). -/
def txItem (pay : List Host.Cell) : Instr → Nat → Option TxItem
  | .scmd c, 0 => some (commandItem c)
  | .sbulk _ _, 0 => some (.command .wWriteAuto)
  | .sbulk a _, 1 => some (.command (.wAddr a))
  | .sbulk _ n, j + 2 => if j < n.toNat then some (.data (Memory.read pay j)) else none
  | .swr1 _ _, 0 => some (.command .wWriteFixed)
  | .swr1 a _, 1 => some (.command (.wAddr a))
  | .swr1 _ v, 2 => some (.data v)
  | .rdbtn, 0 => some (.command .wRead)
  | _, _ => none

/-- `NTX`, the number of bytes a request transmits (R20); 0 for what is no transport request. -/
def nTx : Instr → Nat
  | .scmd _ => 1
  | .sbulk _ n => 2 + n.toNat
  | .swr1 _ _ => 3
  | .rdbtn => 1
  | _ => 0

/-- The transport requests: SCMD, SBULK, SWR1, RDBTN (R21). -/
def isTransport : Instr → Bool
  | .scmd _ => true
  | .sbulk _ _ => true
  | .swr1 _ _ => true
  | .rdbtn => true
  | _ => false

/-- The engine steps between the acceptance of a request and its end (R96, R182); INIT's one step is taken
at acceptance (R84) and is not counted here. -/
def engineSteps : Instr → Nat
  | .scmd _ => 18
  | .sbulk _ n => 34 + 16 * n.toNat
  | .swr1 _ _ => 50
  | .rdbtn => 84
  | _ => 0

/-- The accumulator after the bit `d` is drawn k-th in its slot: the left shift-and-OR of R92 under
variant B, bit k of the slot byte under variant A (U6). -/
def rxShift (v : RxVariant) (acc : Byte) (k : Nat) (d : Bool) : Byte :=
  match v with
  | .b => (acc <<< 1) ||| (if d then 1 else 0)
  | .a => (acc &&& ~~~((1 : Byte) <<< k)) ||| (if d then (1 : Byte) <<< k else 0)

/-- The union after slot `s` with slot byte `acc`: right shift by `s` under variant B (R92), left shift
under variant A (U6). -/
def rxUnion (v : RxVariant) (btn acc : Byte) (s : Nat) : Byte :=
  match v with
  | .b => btn ||| (acc >>> s)
  | .a => btn ||| (acc <<< s)

end Sys2Proof.Machine
end

