-- ==== Sys2Proof/Machine/Ops.lean ====
section
/-! DEFINITION. The named operations every meaning is made of: the fault entry (60_exceptions.md R153),
acceptance with the order of checks (R154), the engine steps (40_transport.md R86, R87, R92) with the
sequencer's transitions (10_state.md R20), the reset (R170), and the passing of one clock edge. -/

namespace Sys2Proof.Machine

/-- The outcome of an operation of this machine. -/
abbrev Result := Host.Outcome State Fault Refusal

/-- Go on from a next state; a stop stays a stop. -/
def Result.andThen (r : Result) (f : State → Result) : Result :=
  match r with
  | .next s => f s
  | .fault e => .fault e
  | .refused e => .refused e

/-! ### The pin trace -/

/-- One entry of the pin trace: the latches as they stand after the step, with the bit drawn (R9). -/
def State.record (s : State) (drawn : Option Bool) : State :=
  { s with trace := s.trace ++ [⟨s.stb, s.clk, s.dir, s.dioOut, drawn⟩] }

/-! ### Taking a fault, and acceptance -/

/-- Fault entry, `raise F(W)`: `FLT <- code(F)`, `IR <- W`, nothing else (R153). There is no return but
reset (R155). -/
def State.raise (s : State) (f : FaultCode) (w : Word) : State :=
  { s with flt := f, ir := w }

/-- `IR <- req_word`, what every acceptance does first (R61). -/
def State.latch (s : State) (w : Word) : State :=
  { s with ir := w }

/-- Acceptance of a legal request word `w`, by the order of checks of R154: (1), (2) a block that is
faulted or busy accepts nothing; (4) a transport request needs `CFG = 1` (R152); (5) it is performed on
the state with the word latched (R61). -/
def State.accept (s : State) (w : Word) (needsLines : Bool) (perform : State → State) : Result :=
  if s.ready then
    if needsLines && !s.cfg then .next (s.raise .notConfigured w)
    else .next (perform (s.latch w))
  else .next s

/-- Acceptance of an illegal word, check (3) of R154: `ILLEGAL_REQUEST` (R151). -/
def State.acceptIllegal (s : State) (w : Word) : Result :=
  if s.ready then .next (s.raise .illegalRequest w) else .next s

/-- The start of a transport request: `BUSY <- 1` and the sequencer at its first step (R20, R21). -/
def State.startEngine (s : State) : State :=
  { s with busy := true, seq := ⟨.stbFall, 0, 0⟩ }

/-- What RDBTN clears when it is accepted (R13, R14, R91). -/
def State.clearReceiver (s : State) : State :=
  { s with acc := 0x00, btn := 0x00 }

/-! ### The request that runs -/

/-- The request whose word is in `IR`: the engine reads its operands from there (R15, R49, R63). -/
def State.running (s : State) : Option Instr := accepted (decodeRequest s.ir)

/-- `NTX` of the request that runs (R20). -/
def State.runningTx (s : State) : Nat :=
  match s.running with
  | some i => nTx i
  | none => 0

/-- The byte at the sequencer's position (R20, R49). -/
def State.currentItem (s : State) : Option TxItem :=
  match s.running with
  | some i => txItem s.pay i s.seq.ix.toNat
  | none => none

/-! ### Engine steps -/

/-- Bit index `k = h >> 1` of a half-step (R86). -/
def bitIndex (h : BitVec 4) : Nat := h.toNat / 2

/-- `h[0] = 1`: the odd half-steps, which raise the clock (R86, R92). -/
def oddHalf (h : BitVec 4) : Bool := h.getLsbD 0

/-- Where the sequencer goes after a transmit half-step (R20). -/
def State.seqAfterTx (s : State) : Seq :=
  if s.seq.hs ≠ 15 then { s.seq with hs := s.seq.hs + 1 }
  else if s.seq.ix.toNat + 1 < s.runningTx then ⟨.tx, s.seq.ix + 1, 0⟩
  else if s.running = some .rdbtn then ⟨.dirIn, 0, 0⟩
  else ⟨.stbRise, 0, 0⟩

/-- Where the sequencer goes after a receive half-step (R20). -/
def State.seqAfterRx (s : State) : Seq :=
  if s.seq.hs ≠ 15 then { s.seq with hs := s.seq.hs + 1 }
  else if s.seq.ix.toNat + 1 < Config.rxSlots then ⟨.rx, s.seq.ix + 1, 0⟩
  else ⟨.dirOut, 0, 0⟩

/-- One half-step of `TxByte(v)`: an even one sets the data line to bit k and drops the clock, an odd one
raises the clock (R86). -/
def State.txHalfStep (s : State) (v : Byte) : State :=
  if oddHalf s.seq.hs then
    State.record { s with clk := true, seq := s.seqAfterTx } none
  else
    State.record { s with dioOut := v.getLsbD (bitIndex s.seq.hs), clk := false, seq := s.seqAfterTx } none

/-- One half-step of `RxSlot`: an even one drops the clock, an odd one raises it and shifts in the bit `d`,
and the last one of the slot joins the slot byte to the union (R92). -/
def State.rxHalfStep (s : State) (d : Bool) : State :=
  if oddHalf s.seq.hs then
    let acc := rxShift Config.rxVariant s.acc (bitIndex s.seq.hs) d
    let btn := if s.seq.hs = 15 then rxUnion Config.rxVariant s.btn acc s.seq.ix.toNat else s.btn
    State.record { s with clk := true, acc := acc, btn := btn, seq := s.seqAfterRx } (some d)
  else
    State.record { s with clk := false, seq := s.seqAfterRx } none

/-- `StbFall()` (R87). -/
def State.stbFallStep (s : State) : State :=
  State.record { s with stb := false, seq := ⟨.tx, 0, 0⟩ } none

/-- `DirIn()` (R87). -/
def State.dirInStep (s : State) : State :=
  State.record { s with dir := false, seq := ⟨.rx, 0, 0⟩ } none

/-- `DirOut()` (R87). -/
def State.dirOutStep (s : State) : State :=
  State.record { s with dir := true, seq := ⟨.stbRise, 0, 0⟩ } none

/-- `StbRise()`, the step that ends a request: `BUSY <- 0`, and for RDBTN `RES <- BTN` (R87, R91). That the
idle position is `IX = 0`, `HS = 0` is read from R27 (log entry 17). -/
def State.stbRiseStep (s : State) : State :=
  State.record
    { s with
      stb := true
      busy := false
      seq := ⟨.idle, 0, 0⟩
      res := if s.running = some .rdbtn then s.btn else s.res } none

/-- A wire byte while the engine transmits: the half-step `SEQ` names. Outside a transmission the spec
gives no such action (R69, R86; log entry 5). -/
def State.transmit (s : State) (v : Byte) : Result :=
  if s.busy && s.seq.ph == .tx then .next (s.txHalfStep v)
  else .refused .wireByteOutsideTransmission

/-! ### Clock edges -/

/-- The input levels at the coming edge (log entry 1). -/
def State.edgeInput (s : State) : EdgeInput :=
  match s.env with
  | e :: _ => e
  | [] => Config.freeEdge s.edge

/-- The edge has passed: its levels are gone. -/
def State.passEdge (s : State) : State :=
  match s.env with
  | _ :: es => { s with env := es }
  | [] => { s with edge := s.edge + 1 }

/-- The host's liberty at an edge that does not accept its word: go on presenting it, or give it up (R61,
R185). A word given up is recorded, since a run of R183 needs every word accepted (log entry 2). -/
def State.withdraw (s : State) (e : EdgeInput) : State :=
  if e.giveUp then
    { s with requests := s.requests.tail, givenUp := s.givenUp ++ s.requests.take 1 }
  else s

/-- `rst = 1` at an edge: every item of R27 takes its reset value, whatever was going on (R170, R172). The
host, the environment and the trace are no items of R27 and stay (log entries 2, 1, 3). -/
def State.resetBlock (s : State) : State :=
  { State.reset with
    requests := s.requests, givenUp := s.givenUp, env := s.env, edge := s.edge, trace := s.trace }

end Sys2Proof.Machine
end

