-- ==== Sys2Proof/Machine/Button.lean ====
section
/-! DEFINITION. The meaning of SMP (42_button_edge.md R121). -/

namespace Sys2Proof.Machine

/-- `RES <- released; LAST <- c`, both from the old `LAST` (R121). -/
def State.sample (s : State) (c : Byte) : State :=
  { s with res := releasedMask s.last c, last := c }

/-- SMP c (R121): completes in the accepting step. -/
def execSmp (c : Byte) (s : State) : Result :=
  s.accept (requestWord 8 0 c) false fun t => t.sample c

end Sys2Proof.Machine
end

