-- ==== Sys2Proof/Machine/Lines.lean ====
section
/-! DEFINITION. The meaning of INIT (40_transport.md R84). -/

namespace Sys2Proof.Machine

/-- The configuration step: `CFG <- 1; STB <- 1; CLK <- 1; DIO_OUT <- 0; DIR <- 1` and one trace entry. -/
def State.configureLines (s : State) : State :=
  State.record { s with cfg := true, stb := true, clk := true, dioOut := false, dir := true } none

/-- INIT (R84): taken at the accepting edge, completes there, cannot fail. -/
def execInit (s : State) : Result :=
  s.accept (requestWord 1 0 0) false State.configureLines

end Sys2Proof.Machine
end

