-- ==== Sys2Proof/Machine/Payload.lean ====
section
/-! DEFINITION. The meaning of LDP (40_transport.md R85). -/

namespace Sys2Proof.Machine

/-- `PAY[i] <- v` (R8, R85). -/
def State.storeCell (s : State) (i : Nibble) (v : Byte) : State :=
  { s with pay := Memory.write s.pay i.toNat v }

/-- LDP i, v (R85): no engine step, no pin change, allowed while `CFG = 0`. -/
def execLdp (i : Nibble) (v : Byte) (s : State) : Result :=
  s.accept (requestWord 3 i v) false fun t => t.storeCell i v

end Sys2Proof.Machine
end

