-- ==== Sys2Proof/Machine/Segment.lean ====
section
/-! DEFINITION. The meaning of ENC (41_segment_encoder.md R112). -/

namespace Sys2Proof.Machine

/-- `RES <- v` (R11). -/
def State.setRes (s : State) (v : Byte) : State := { s with res := v }

/-- ENC v (R112): completes in the accepting step, reads no state. -/
def execEnc (v : Byte) (s : State) : Result :=
  s.accept (requestWord 7 0 v) false fun t => t.setRes (segEncode v)

end Sys2Proof.Machine
end

