-- ==== Sys2Proof/Machine/Transport.lean ====
section
/-! DEFINITION. The meanings of the transport requests SCMD, SBULK, SWR1 and RDBTN (40_transport.md R88 to
R91): the acceptance, which starts the engine. The engine steps that follow are in Engine.lean. -/

namespace Sys2Proof.Machine

/-- SCMD c (R88): any byte is sent (R67). -/
def execScmd (c : Byte) (s : State) : Result :=
  s.accept (requestWord 2 0 c) true State.startEngine

/-- SBULK a, n (R89): `ILLEGAL_REQUEST` if `n > 16`, before the check of `CFG` (R154). -/
def execSbulk (a : Nibble) (n : Byte) (s : State) : Result :=
  if n.toNat ≤ 16 then s.accept (requestWord 4 a n) true State.startEngine
  else s.acceptIllegal (requestWord 4 a n)

/-- SWR1 a, v (R90). -/
def execSwr1 (a : Nibble) (v : Byte) (s : State) : Result :=
  s.accept (requestWord 5 a v) true State.startEngine

/-- RDBTN (R91): also clears `ACC` and `BTN`. -/
def execRdbtn (s : State) : Result :=
  s.accept (requestWord 6 0 0) true fun t => t.clearReceiver.startEngine

end Sys2Proof.Machine
end

