-- ==== Sys2Proof/Machine/Wire.lean ====
section
/-! DEFINITION. The meanings of the wire bytes (30_encoding.md R65, R66). Each is the transmission of its
byte by `TxByte` (40_transport.md R86), of which one execution performs the half-step that `SEQ` names:
16 executions, one a tick, send the whole byte (log entry 5). -/

namespace Sys2Proof.Machine

/-- W_DISPLAY b, the byte `0x88 | b` (R65). -/
def execWDisplay (b : BitVec 3) (s : State) : Result := s.transmit (displayByte b)

/-- W_WRITE_AUTO, the byte 0x40 (R65). -/
def execWWriteAuto (s : State) : Result := s.transmit Config.cmdWriteAuto

/-- W_READ, the byte 0x42 (R65). -/
def execWRead (s : State) : Result := s.transmit Config.cmdRead

/-- W_WRITE_FIXED, the byte 0x44 (R65). -/
def execWWriteFixed (s : State) : Result := s.transmit Config.cmdWriteFixed

/-- W_ADDR a, the byte `0xC0 | a` (R66). -/
def execWAddr (a : Nibble) (s : State) : Result := s.transmit (addrByte a)

end Sys2Proof.Machine
end

