-- ==== Sys2Proof/Machine/Dispatch.lean ====
section
/-! DEFINITION. One arm per constructor of `Instr`, each a direct call of its meaning. -/

namespace Sys2Proof.Machine

/-- The effect of an instruction: of a request when it is presented on the port, of a wire byte when the
engine takes a step of its transmission. -/
def exec (i : Instr) (s : State) : Host.Outcome State Fault Refusal :=
  match i with
  | .init => Sys2Proof.Machine.execInit s
  | .scmd c => Sys2Proof.Machine.execScmd c s
  | .ldp x v => Sys2Proof.Machine.execLdp x v s
  | .sbulk a n => Sys2Proof.Machine.execSbulk a n s
  | .swr1 a v => Sys2Proof.Machine.execSwr1 a v s
  | .rdbtn => Sys2Proof.Machine.execRdbtn s
  | .enc v => Sys2Proof.Machine.execEnc v s
  | .smp c => Sys2Proof.Machine.execSmp c s
  | .wDisplay b => Sys2Proof.Machine.execWDisplay b s
  | .wWriteAuto => Sys2Proof.Machine.execWWriteAuto s
  | .wRead => Sys2Proof.Machine.execWRead s
  | .wWriteFixed => Sys2Proof.Machine.execWWriteFixed s
  | .wAddr a => Sys2Proof.Machine.execWAddr a s

end Sys2Proof.Machine
end

