-- ==== Sys2Proof/Machine/Engine.lean ====
section
/-! DEFINITION. One engine step, and several of them, one per tick (40_transport.md R81; 10_state.md R20). -/

namespace Sys2Proof.Machine

/-- The engine step that `SEQ` names, with `d` the level of the data pin at this edge (R20, R81, R92). A
wire command byte is executed as the instruction it is; a data byte is transmitted the same way. -/
def engineStep (d : Bool) (s : State) : Result :=
  match s.seq.ph with
  | .idle => .fault .sequencerLost
  | .stbFall => .next s.stbFallStep
  | .tx =>
    match s.currentItem with
    | some (.command i) => exec i s
    | some (.data v) => s.transmit v
    | none => .fault .sequencerLost
  | .dirIn => .next s.dirInStep
  | .rx => if s.seq.ix.toNat < Config.rxSlots then .next (s.rxHalfStep d) else .fault .sequencerLost
  | .dirOut => .next s.dirOutStep
  | .stbRise => .next s.stbRiseStep

/-- Engine steps one after another, one for each listed level of the data pin. -/
def engineRun : List Bool → State → Result
  | [], s => .next s
  | d :: ds, s => Result.andThen (engineStep d s) (engineRun ds)

/-- One instruction executed several times, as a wire byte is, once a tick, until it is sent. -/
def execTimes : Nat → Instr → State → Result
  | 0, _, s => .next s
  | n + 1, i, s => Result.andThen (exec i s) (execTimes n i)

end Sys2Proof.Machine
end

