-- ==== Sys2Proof/Machine/Port.lean ====
section
/-! DEFINITION. One rising edge of `clk` (10_state.md R25): reset, an engine step, or the acceptance of a
request word (30_encoding.md R61, 60_exceptions.md R154), and where the next instruction is taken from. -/

namespace Sys2Proof.Machine

/-- The word on `req_word` is accepted: decoded, and performed or rejected (R61, R64, R151). -/
def acceptWord (w : Word) (s : State) : Result :=
  match decodeRequest w with
  | .ok i => exec i s
  | .error _ => s.acceptIllegal w

/-- The edge with the input levels `e`, on the state with those levels consumed. Reset overrides all else
(R170); a busy block takes an engine step if `tick = 1` and accepts nothing (R21, R81); a faulted one
accepts nothing (R155); a ready one accepts the presented word (R61). -/
def edgeWith (e : EdgeInput) (s : State) : Result :=
  if e.rst then .next (s.withdraw e).resetBlock
  else if s.busy then
    if e.tick then engineStep e.dio (s.withdraw e) else .next (s.withdraw e)
  else if s.flt ≠ .none then .next (s.withdraw e)
  else if e.present then
    match s.requests with
    | [] => .next s
    | w :: ws => acceptWord w { s with requests := ws }
  else .next (s.withdraw e)

/-- One rising edge of `clk`. -/
def clockEdge (s : State) : Result := edgeWith s.edgeInput s.passEdge

/-- An edge with nothing in the way: no reset, a tick, the host presenting its word. -/
def plainEdge : EdgeInput :=
  { rst := false, tick := true, present := true, giveUp := false, dio := false }

/-- A state in which the port accepts: a block that is busy or faulted is first reset (R155, R172). -/
def State.madeReady (s : State) : State := if s.ready then s else s.resetBlock

/-- The request word placed as the host's next word, with an edge that presents it (log entry 13). -/
def State.placeRequest (s : State) (w : Word) : State :=
  let t := s.madeReady
  { t with requests := w :: t.requests, env := plainEdge :: t.env }

/-- A request word that transmits the wire byte `b`, and the index at which it does (R88 to R91). -/
def wireCarrier (b : Byte) : Word × BitVec 5 :=
  match decodeWire b with
  | .ok .wWriteAuto => (requestWord 4 0 0, 0)
  | .ok .wWriteFixed => (requestWord 5 0 0, 0)
  | .ok .wRead => (requestWord 6 0 0, 0)
  | .ok (.wAddr a) => (requestWord 4 a 0, 1)
  | _ => (requestWord 2 0 b, 0)

/-- The engine placed before the first half-step of the wire byte `b`, inside the strobe window of a
request that sends it, with an edge that ticks (log entry 13). -/
def State.placeWire (s : State) (b : Byte) : State :=
  { s with
    cfg := true
    busy := true
    flt := .none
    ir := (wireCarrier b).1
    seq := ⟨.tx, (wireCarrier b).2, 0⟩
    stb := false
    clk := true
    dir := true
    env := plainEdge :: s.env }

/-- The placing of an instruction of `nbits` bits numbered as the opcode table numbers them. -/
def State.place (s : State) (nbits w : Nat) : State :=
  if nbits = 16 then s.placeRequest (BitVec.ofNat 16 w)
  else if nbits = 8 then s.placeWire (BitVec.ofNat 8 w)
  else s

end Sys2Proof.Machine
end

