-- ==== Sys2Proof/Machine/Assembler.lean ====
section
/-! DEFINITION. The assembler line of a request (30_encoding.md R68): a mnemonic with its operands in the
order `x, imm8`, assembled to `(op << 12) | (x << 8) | imm8`. -/

namespace Sys2Proof

/-- An operand of 8 bits: a number 0..255. -/
def operand8 (n : Int) : Option Byte := if 0 ≤ n ∧ n < 256 then some (BitVec.ofInt 8 n) else none

/-- An operand of 4 bits: a number 0..15. -/
def operand4 (n : Int) : Option Nibble := if 0 ≤ n ∧ n < 16 then some (BitVec.ofInt 4 n) else none

/-- The operand of ENC: a negative one is written with a minus sign and encoded in two's complement. -/
def operandEnc (n : Int) : Option Byte := if -128 ≤ n ∧ n < 256 then some (BitVec.ofInt 8 n) else none

/-- The term a line spells, its numbers already read (R68). A line whose operands do not fit their fields
spells none. A count over 16 for SBULK fits its field: the line spells a term that is not well-formed, and its
word is illegal when it is accepted (R64, V-T3). -/
def instrOfLine (mnemonic : String) (operands : List Int) : Option Instr :=
  match operands with
  | [] => if mnemonic = "INIT" then some .init else if mnemonic = "RDBTN" then some .rdbtn else none
  | [n] =>
    if mnemonic = "SCMD" then (operand8 n).map .scmd
    else if mnemonic = "ENC" then (operandEnc n).map .enc
    else if mnemonic = "SMP" then (operand8 n).map .smp
    else none
  | [x, n] =>
    (operand4 x).bind fun x => (operand8 n).bind fun n =>
      if mnemonic = "LDP" then some (.ldp x n)
      else if mnemonic = "SBULK" then some (.sbulk x n)
      else if mnemonic = "SWR1" then some (.swr1 x n)
      else none
  | _ => none

/-- The word a line assembles to (R68). -/
def assemble (mnemonic : String) (operands : List Int) : Option Word :=
  (instrOfLine mnemonic operands).bind fun i =>
    match encode i with
    | .request w => some w
    | .wire _ => none

end Sys2Proof
end

