-- ==== Sys2Proof/Machine/Issue.lean ====
section
/-! DEFINITION. How the host issues a request and waits for CDB (43_host_sequences.md R130): "present the
request until accepted, then wait until `STATUS[0] = 0`". The levels of the data pin at the ticks to come are
a list, of which each engine step takes one; what is left of it is handed on. -/

namespace Sys2Proof.Machine

/-- How far a computation of the host on the machine has come when the listed levels are used up (log
entry 14). -/
inductive HostRun (α : Type) where
  /-- Ended with the answer `a`, in the state `s`, with the levels `rest` not used. -/
  | done (a : α) (s : State) (rest : List Bool)
  /-- The last word was accepted and `BUSY = 1`: the host waits (R175, R184). -/
  | waiting (s : State)
  /-- The request `i` is presented and not accepted: the block is busy, or faulted for good (R61, R155). -/
  | presenting (i : Instr) (s : State)
  /-- The model stopped with a fault. -/
  | fault (e : Fault)
  /-- The model stopped with a refusal. -/
  | refused (e : Refusal)
  deriving DecidableEq, Repr

/-- Go on with the answer, the state and the levels left; anything else stays. -/
def HostRun.andThen {α β : Type} (r : HostRun α) (f : α → State → List Bool → HostRun β) : HostRun β :=
  match r with
  | .done a s rest => f a s rest
  | .waiting s => .waiting s
  | .presenting i s => .presenting i s
  | .fault e => .fault e
  | .refused e => .refused e

/-- The state an operation of the machine answers, handed to the host with the levels `ds`. -/
def HostRun.ofResult {α : Type} (r : Result) (f : State → HostRun α) : HostRun α :=
  match r with
  | .next s => f s
  | .fault e => .fault e
  | .refused e => .refused e

/-- Wait until `STATUS[0] = 0` (R130): engine steps while `BUSY = 1`, one for each level. With too few levels
the block stays busy (R184). -/
def waitIdle : List Bool → State → HostRun Unit
  | [], s => if s.busy then .waiting s else .done () s []
  | d :: ds, s =>
    if s.busy then HostRun.ofResult (engineStep d s) (waitIdle ds) else .done () s (d :: ds)

/-- The request is presented to a block that is not busy: accepted and waited for, or, by a faulted block,
not accepted (R61, R154, R155). -/
def presentIdle (i : Instr) (s : State) (ds : List Bool) : HostRun Unit :=
  if s.flt = .none then HostRun.ofResult (exec i s) (waitIdle ds) else .presenting i s

/-- Issue a request (R130): present it until it is accepted, which a transaction that is still open delays
to its end (R61, R174), then wait for its own end. -/
def issue (i : Instr) (ds : List Bool) (s : State) : HostRun Unit :=
  match waitIdle ds s with
  | .waiting t => .presenting i t
  | r => r.andThen fun _ t rest => presentIdle i t rest

/-- Requests issued one after another, each waited for (R130). -/
def issueAll : List Instr → List Bool → State → HostRun Unit
  | [], ds, s => .done () s ds
  | i :: is, ds, s => (issue i ds s).andThen fun _ t rest => issueAll is rest t

end Sys2Proof.Machine
end

