-- ==== Sys2Proof/Machine/Driver.lean ====
section
/-! DEFINITION. The host sequences of 43_host_sequences.md: the display driver's operations as host
computation on host state and the requests they issue. They are software (R5): they add no state to CDB
and no behaviour, so this state is not part of `State`. -/

namespace Sys2Proof.Machine

/-- The host's two items (R130): `DB[0..15]`, the DisplayBuffer, in the canonical form of the payload
store, and `FM[7:0]`, the FlashMask. -/
structure Driver where
  db : List Host.Cell
  fm : Byte
  deriving DecidableEq, Repr

/-- The cell of indicator bit i, `((7-i)*2)+1` (R134, R137). -/
def ledCell (i : Nat) : Nat := (7 - i) * 2 + 1

/-- All 16 cells set to one byte. -/
def fillCells (v : Byte) (db : List Host.Cell) : List Host.Cell :=
  (List.range Config.nCells).foldl (fun m j => Memory.write m j v) db

/-- BLANK (R132). -/
def Driver.blank (d : Driver) : Driver := { d with db := fillCells 0x00 d.db }

/-- FILL (R133). -/
def Driver.fill (d : Driver) : Driver := { d with db := fillCells 0xFF d.db }

/-- SETLEDS m (R134): bit i to its cell, 0x01 for on (R130). -/
def Driver.setLeds (d : Driver) (m : Byte) : Driver :=
  { d with
    db := (List.range 8).foldl
      (fun c i => Memory.write c (ledCell i) (if m.getLsbD i then 0x01 else 0x00)) d.db }

/-- SETDIGIT p, d (R135) on the machine: ENC d, wait, `DB[2*p] <- RES`. A position outside 0..3 cannot be
written (U17; log entry 14). -/
def Driver.setDigit (d : Driver) (p : Fin 4) (v : Byte) (ds : List Bool) (s : State) : HostRun Driver :=
  (issue (.enc v) ds s).andThen fun _ t rest =>
    .done { d with db := Memory.write d.db (2 * p.val) t.res } t rest

/-- ENC of one value after another, each waited for, and the results read from `RES` (R136: `enc(x)` is the
result of `ENC x`). Each result is read before the next ENC overwrites it (R175). -/
def encodeAll : List Byte → List Bool → State → HostRun (List Byte)
  | [], ds, s => .done [] s ds
  | v :: vs, ds, s =>
    (issue (.enc v) ds s).andThen fun _ t rest =>
      (encodeAll vs rest t).andThen fun g u rest' => .done (t.res :: g) u rest'

/-- The four digits SETTIMER encodes for `s` seconds: tens and units of minutes, tens and units of seconds
(R136). -/
def timerDigits (s : Nat) : List Nat :=
  let m := s / 60
  let ss := s % 60
  [m / 10, m % 10, ss / 10, ss % 10]

/-- SETTIMER s (R136), the cells it writes for `s` seconds when the four results are `g`. The point of cell 10
is set when the unit digit of the seconds is even. -/
def Driver.writeTimer (d : Driver) (s : Nat) (g : List Byte) : Driver :=
  let point : Byte := if s % 60 % 10 % 2 = 0 then 0x80 else 0x00
  let c8 := Memory.write d.db 8 (g.getD 0 0)
  let c10 := Memory.write c8 10 (g.getD 1 0 ||| point)
  let c12 := Memory.write c10 12 (g.getD 2 0)
  { d with db := Memory.write c12 14 (g.getD 3 0) }

/-- SETTIMER s (R136) on the machine. A negative time blanks the four cells and issues nothing. At 6000
seconds and above the spec tells a model to refuse (U17; log entry 14). -/
def Driver.setTimer (d : Driver) (s : Int) (ds : List Bool) (m : State) : Option (HostRun Driver) :=
  if s < 0 then
    some (.done { d with db := [8, 10, 12, 14].foldl (fun c j => Memory.write c j 0x00) d.db } m ds)
  else if s < 6000 then
    some ((encodeAll ((timerDigits s.toNat).map (BitVec.ofNat 8)) ds m).andThen fun g t rest =>
      .done (d.writeTimer s.toNat g) t rest)
  else none

/-- The image FLUSH sends at the time `now` in milliseconds: in the even half-periods of 500 ms the cells
of the FlashMask are dark (R137). -/
def Driver.image (d : Driver) (now : Nat) : List Host.Cell :=
  if now / Config.blinkHalf % 2 = 0 then
    (List.range 8).foldl
      (fun c i => if d.fm.getLsbD i then Memory.write c (ledCell i) 0x00 else c) d.db
  else d.db

/-- FLUSH now (R137): 16 LDP and one SBULK 0, 16. The buffer is not changed. -/
def Driver.flushRequests (d : Driver) (now : Nat) : List Instr :=
  (List.range Config.nCells).map
    (fun j => Instr.ldp (BitVec.ofNat 4 j) (Memory.read (d.image now) j)) ++ [.sbulk 0 16]

/-- FLUSH now (R137) on the machine: its requests, each waited for. -/
def Driver.flush (d : Driver) (now : Nat) (ds : List Bool) (s : State) : HostRun Unit :=
  issueAll (d.flushRequests now) ds s

/-- SETUP b (R131): the requests it issues, the flush being that of the blanked buffer. Its expansion writes
no FlashMask and none is written here, which is the model's choice beside the remark "FM is 0 at this point"
(log entry 19). -/
def Driver.setupRequests (d : Driver) (b : Byte) (now : Nat) : List Instr :=
  [.init, .scmd (Config.cmdDisplay ||| (b &&& 0x07))] ++ d.blank.flushRequests now

/-- SETUP b (R131) on the machine: the host is left with the blanked buffer and the FlashMask it had (log
entry 19). -/
def Driver.setup (d : Driver) (b : Byte) (now : Nat) (ds : List Bool) (s : State) : HostRun Driver :=
  (issueAll (d.setupRequests b now) ds s).andThen fun _ t rest => .done d.blank t rest

/-- SETUP as the host reports it: it has failed when `STATUS[3:2]` is not zero after its requests (R158). -/
def setupFailed (s : State) : Bool := s.status.extractLsb' 2 2 != 0

/-- READBUTTONS (R138) on the machine: RDBTN, wait, and the byte read from `RES`. -/
def readButtons (ds : List Bool) (s : State) : HostRun Byte :=
  (issue .rdbtn ds s).andThen fun _ t rest => .done t.res t rest

/-- POLL (R139) on the machine: READBUTTONS, then SMP of its result; the answer is the edges read from
`RES`. -/
def poll (ds : List Bool) (s : State) : HostRun Byte :=
  (readButtons ds s).andThen fun sample t rest =>
    (issue (.smp sample) rest t).andThen fun _ u rest' => .done u.res u rest'

end Sys2Proof.Machine
end

