-- ==== Sys2Proof/Machine/Trace.lean ====
section
/-! DEFINITION. What is observed on the pins: the wire byte sequence derived from the pin trace
(00_scope.md R9), and the entries that `TxByte` and `RxSlot` append to it (40_transport.md R86, R92). -/

namespace Sys2Proof.Machine

/-- The entries between each step that sets `STB` to 0 and the next step that sets `STB` to 1 (R9). The
first argument is the strobe level before the entries, the second the entries of the window so far. -/
def windowsFrom : Bool → List PinEntry → List PinEntry → List (List PinEntry)
  | _, _, [] => []
  | true, w, e :: es => if e.stb then windowsFrom true w es else windowsFrom false [] es
  | false, w, e :: es => if e.stb then w :: windowsFrom true [] es else windowsFrom false (w ++ [e]) es

/-- The byte carried by 16 transmit half-steps: bit k is `DIO_OUT` after half-step 2k (R9). -/
def byteOfHalfSteps (h : List PinEntry) : Byte :=
  (List.range 8).foldl
    (fun b k => if ((h[2 * k]?).map PinEntry.dioOut).getD false then b ||| ((1 : Byte) <<< k) else b) 0

/-- The bytes of transmit half-steps taken 16 at a time, an incomplete group carrying none (R9). The first
argument bounds the number of groups. -/
def bytesOfHalfSteps : Nat → List PinEntry → List Byte
  | 0, _ => []
  | n + 1, es =>
    if es.length < 16 then [] else byteOfHalfSteps (es.take 16) :: bytesOfHalfSteps n (es.drop 16)

/-- The wire byte sequence of each finished strobe window of a trace (R9). The transmit half-steps of a
window are its entries with `DIR = 1`; the single DirOut entry that ends a button read is no group. -/
def wireBytes (trace : List PinEntry) : List (List Byte) :=
  (windowsFrom true [] trace).map fun w =>
    let tx := w.filter PinEntry.dir
    bytesOfHalfSteps tx.length tx

/-- The 16 entries of `TxByte(v)` inside a strobe window (R86). -/
def txEntries (v : Byte) : List PinEntry :=
  (List.range 16).map fun h => ⟨false, h % 2 == 1, true, v.getLsbD (h / 2), none⟩

/-- The 16 entries of one `RxSlot` with the data latch at `dio`, where `ds` are the levels of the data pin
at the 16 half-steps (R92). -/
def rxEntries (dio : Bool) (ds : List Bool) : List PinEntry :=
  (List.range 16).map fun h =>
    ⟨false, h % 2 == 1, false, dio, if h % 2 == 1 then some (ds.getD h false) else none⟩

/-- The byte of one slot from the levels of the data pin at its 16 half-steps: only the odd ones are
sampled, and the first bit drawn is bit 7 (R42, R92). -/
def slotByte (ds : List Bool) : Byte :=
  (List.range 8).foldl
    (fun b k => if ds.getD (2 * k + 1) false then b ||| ((1 : Byte) <<< (7 - k)) else b) 0

end Sys2Proof.Machine
end

