-- ==== Sys2Proof/Safety.lean ====
section
/-! DEFINITION. What counts as a good state and a finished run, in the terms the statements use: the
invariant of CDB, the number of engine steps left, the end of a run (70_reset_and_hazards.md R183). -/

namespace Sys2Proof.Machine

/-- The request that runs is RDBTN. -/
def State.reading (s : State) : Prop := s.running = some .rdbtn

/-- Where the lines and the position stand in each phase (R16 to R20, R80, R91): the strobe is low exactly
inside a transaction, the data line is an input exactly between DirIn and DirOut, the clock is low exactly
before an odd half-step. -/
def State.phaseOk (s : State) : Prop :=
  match s.seq.ph with
  | .idle => s.seq = ⟨.idle, 0, 0⟩ ∧ s.stb = true ∧ s.clk = true ∧ s.dir = true
  | .stbFall => s.seq = ⟨.stbFall, 0, 0⟩ ∧ s.stb = true ∧ s.clk = true ∧ s.dir = true
  | .tx => s.seq.ix.toNat < s.runningTx ∧ s.stb = false ∧ s.clk = !oddHalf s.seq.hs ∧ s.dir = true
  | .dirIn => s.reading ∧ s.seq = ⟨.dirIn, 0, 0⟩ ∧ s.stb = false ∧ s.clk = true ∧ s.dir = true
  | .rx => s.reading ∧ s.seq.ix.toNat < 4 ∧ s.stb = false ∧ s.clk = !oddHalf s.seq.hs ∧ s.dir = false
  | .dirOut => s.reading ∧ s.seq = ⟨.dirOut, 0, 0⟩ ∧ s.stb = false ∧ s.clk = true ∧ s.dir = false
  | .stbRise => s.seq = ⟨.stbRise, 0, 0⟩ ∧ s.stb = false ∧ s.clk = true ∧ s.dir = true

/-- The invariant of CDB.

* the payload store is in canonical form (R24);
* `BUSY = 1` exactly when `PH` is not `IDLE` (R21);
* a busy block has its lines configured, no fault, and a transport request in `IR` (R152, R153, R15);
* before `INIT` the latches stand at their reset levels (R19, R27);
* the phase agrees with the lines. -/
structure State.Inv (s : State) : Prop where
  payOk : Memory.wf s.pay
  busyIff : s.busy = true ↔ s.seq.ph ≠ .idle
  busyCfg : s.busy = true → s.cfg = true
  busyFlt : s.busy = true → s.flt = .none
  busyRun : s.busy = true → ∃ i, s.running = some i ∧ isTransport i = true
  cfgLow : s.cfg = false → s.dioOut = false
  phase : s.phaseOk

/-- The engine steps from DirIn to DirOut that only a button read takes (R91). -/
def State.readSteps (s : State) : Nat := if s.running = some .rdbtn then 66 else 0

/-- How many engine steps the running request still takes (R94, R182). -/
def State.stepsLeft (s : State) : Nat :=
  match s.seq.ph with
  | .idle => 0
  | .stbFall => 1 + 16 * s.runningTx + s.readSteps + 1
  | .tx => (16 * (s.runningTx - s.seq.ix.toNat) - s.seq.hs.toNat) + s.readSteps + 1
  | .dirIn => 67
  | .rx => (16 * (4 - s.seq.ix.toNat) - s.seq.hs.toNat) + 2
  | .dirOut => 2
  | .stbRise => 1

/-- The end of a run: every word of the host's list accepted, `BUSY = 0`, `FLT = 0` (R183). A word leaves
the list by acceptance or by being given up, so all were accepted when none is left and none was given
up. -/
def State.runOver (s : State) : Prop :=
  s.requests = [] ∧ s.givenUp = [] ∧ s.busy = false ∧ s.flt = .none

/-- What is observed of a finished run: the pin trace with the drawn bits, `RES`, `STATUS`, `IR` (R183). -/
def State.observed (s : State) : List PinEntry × Byte × Byte × Word :=
  (s.trace, s.res, s.status, s.ir)

/-- The state of the block is unchanged: everything but the host's lists, the input levels and their
counter is the same. -/
def State.sameBlock (s t : State) : Prop :=
  t = { s with requests := t.requests, givenUp := t.givenUp, env := t.env, edge := t.edge }

/-- No word is accepted at the edge from `s` to `t`: the host's words stay, but for one it gives up (R61,
R185). -/
def State.noWordAccepted (s t : State) : Prop :=
  t.requests = (if s.edgeInput.giveUp then s.requests.tail else s.requests) ∧
  t.givenUp = (if s.edgeInput.giveUp then s.givenUp ++ s.requests.take 1 else s.givenUp)

end Sys2Proof.Machine
end

