-- ==== Sys2Proof/Certificates/Slice0/Obligations.lean ====
section
/-! DEFINITION. The statements for the provers. -/

open Sys2Proof Sys2Proof.Machine

/-! ### Encoding -/

/-- Every instruction a word spells is decoded back from its word, at every operand value. -/
def Obligations.DecodeOfEncode : Prop :=
  ∀ i : Instr, i.wellFormed = true → decode (encode i) = .ok i

/-- What the decoder answers is well-formed and is encoded by the decoded word: each word has at most one
meaning and no bit of it is dropped. -/
def Obligations.EncodeOfDecode : Prop :=
  ∀ (c : Code) (i : Instr), decode c = .ok i → i.wellFormed = true ∧ encode i = c

/-- R62: the decoder selects exactly the row whose mask, match and constraint hold, with R63's operands, and
answers no other instruction (a word no row selects is therefore illegal). -/
def Obligations.RequestRowsSelectByMask : Prop :=
  ∀ w : Word,
    (decodeRequest w = .ok .init ↔ w &&& 0xFFFF = 0x1000) ∧
    (∀ c, decodeRequest w = .ok (.scmd c) ↔ w &&& 0xFF00 = 0x2000 ∧ c = w.extractLsb' 0 8) ∧
    (∀ i v, decodeRequest w = .ok (.ldp i v) ↔
      w &&& 0xF000 = 0x3000 ∧ i = w.extractLsb' 8 4 ∧ v = w.extractLsb' 0 8) ∧
    (∀ a n, decodeRequest w = .ok (.sbulk a n) ↔
      w &&& 0xF000 = 0x4000 ∧ n.toNat ≤ 16 ∧ a = w.extractLsb' 8 4 ∧ n = w.extractLsb' 0 8) ∧
    (∀ a v, decodeRequest w = .ok (.swr1 a v) ↔
      w &&& 0xF000 = 0x5000 ∧ a = w.extractLsb' 8 4 ∧ v = w.extractLsb' 0 8) ∧
    (decodeRequest w = .ok .rdbtn ↔ w &&& 0xFFFF = 0x6000) ∧
    (∀ v, decodeRequest w = .ok (.enc v) ↔ w &&& 0xFF00 = 0x7000 ∧ v = w.extractLsb' 0 8) ∧
    (∀ c, decodeRequest w = .ok (.smp c) ↔ w &&& 0xFF00 = 0x8000 ∧ c = w.extractLsb' 0 8) ∧
    (∀ i, decodeRequest w = .ok i → wireByte i = none)

/-- R64: exactly the listed words are illegal, and an accepted illegal word raises `ILLEGAL_REQUEST` and
does nothing else; 0x0000 and 0xFFFF are illegal. -/
def Obligations.IllegalWordsRaiseIllegalRequest : Prop :=
  (∀ w : Word, (∃ e, decodeRequest w = .error e) ↔
      let op := (w.extractLsb' 12 4).toNat
      let low := (w.extractLsb' 0 12).toNat
      let x := (w.extractLsb' 8 4).toNat
      let imm := (w.extractLsb' 0 8).toNat
      op = 0 ∨ 9 ≤ op ∨ ((op = 1 ∨ op = 6) ∧ low ≠ 0) ∨ ((op = 2 ∨ op = 7 ∨ op = 8) ∧ x ≠ 0) ∨
        (op = 4 ∧ 16 < imm)) ∧
  (∀ (w : Word) (s : State), s.ready = true → (∃ e, decodeRequest w = .error e) →
      acceptWord w s = .next { s with flt := .illegalRequest, ir := w }) ∧
  (∃ e, decodeRequest 0x0000 = .error e) ∧ (∃ e, decodeRequest 0xFFFF = .error e)

/-- R65: the five wire bytes and their patterns. -/
def Obligations.WireRowsSelectByMask : Prop :=
  ∀ b : Byte,
    (∀ k, decodeWire b = .ok (.wDisplay k) ↔ b &&& 0xF8 = 0x88 ∧ k = b.extractLsb' 0 3) ∧
    (decodeWire b = .ok .wWriteAuto ↔ b = 0x40) ∧
    (decodeWire b = .ok .wRead ↔ b = 0x42) ∧
    (decodeWire b = .ok .wWriteFixed ↔ b = 0x44) ∧
    (∀ a, decodeWire b = .ok (.wAddr a) ↔ b &&& 0xF0 = 0xC0 ∧ a = b.extractLsb' 0 4)

/-- R68: the example lines assemble to their example words, and an SBULK of 17 to its illegal word (V-T3). The
example words, and one wire byte of each pattern of R65 but 0x44, decode to the instructions they stand
for. -/
def Obligations.SampleWordsDecode : Prop :=
  assemble "INIT" [] = some 0x1000 ∧ assemble "SCMD" [0x8F] = some 0x208F ∧
  assemble "LDP" [10, 0x5B] = some 0x3A5B ∧ assemble "SBULK" [0, 16] = some 0x4010 ∧
  assemble "SWR1" [2, 0x3F] = some 0x523F ∧ assemble "RDBTN" [] = some 0x6000 ∧
  assemble "ENC" [18] = some 0x7012 ∧ assemble "ENC" [-1] = some 0x70FF ∧
  assemble "SMP" [0x05] = some 0x8005 ∧ assemble "SBULK" [0, 17] = some 0x4011 ∧
  decode (.request 0x1000) = .ok .init ∧ decode (.request 0x208F) = .ok (.scmd 0x8F) ∧
  decode (.request 0x3A5B) = .ok (.ldp 10 0x5B) ∧ decode (.request 0x4010) = .ok (.sbulk 0 16) ∧
  decode (.request 0x523F) = .ok (.swr1 2 0x3F) ∧ decode (.request 0x6000) = .ok .rdbtn ∧
  decode (.request 0x7012) = .ok (.enc 18) ∧ decode (.request 0x70FF) = .ok (.enc 0xFF) ∧
  decode (.request 0x8005) = .ok (.smp 0x05) ∧ decode (.request 0x4011) = .error .countOver16 ∧
  decode (.wire 0x40) = .ok .wWriteAuto ∧ decode (.wire 0x42) = .ok .wRead ∧
  decode (.wire 0xC3) = .ok (.wAddr 3) ∧ decode (.wire 0x8F) = .ok (.wDisplay 7)

/-! ### Reset -/

/-- R27: the value of every item after reset. -/
def Obligations.ResetValues : Prop :=
  let s := State.reset
  s.res = 0x00 ∧ s.last = 0x00 ∧ s.acc = 0x00 ∧ s.btn = 0x00 ∧ s.ir = 0x0000 ∧ s.stb = true ∧
  s.clk = true ∧ s.dioOut = false ∧ s.dir = true ∧ s.cfg = false ∧ s.seq = ⟨.idle, 0, 0⟩ ∧
  s.busy = false ∧ s.flt.bits = 0 ∧ (∀ i : Nibble, Memory.read s.pay i.toNat = 0x00)

/-- R170: an edge with `rst = 1` gives every item its reset value, whatever was going on, and leaves a block
that waits for requests; no request is accepted and no engine step is taken. That the host's list outlives a
reset, but for a word the host gives up, is the model's choice (log entry 2, DESIGN CHOICE), and so is it that
the trace gains no entry and loses none (log entry 3, DEDUCED): R170 speaks of neither. -/
def Obligations.ResetEdgeOverridesEverything : Prop :=
  ∀ s : State, s.edgeInput.rst = true →
    ∃ t, step s = .next t ∧
      t.res = 0x00 ∧ t.last = 0x00 ∧ t.acc = 0x00 ∧ t.btn = 0x00 ∧ t.ir = 0x0000 ∧ t.stb = true ∧
      t.clk = true ∧ t.dioOut = false ∧ t.dir = true ∧ t.cfg = false ∧ t.seq = ⟨.idle, 0, 0⟩ ∧
      t.busy = false ∧ t.flt = .none ∧ (∀ i : Nibble, Memory.read t.pay i.toNat = 0x00) ∧
      t.ready = true ∧ t.trace = s.trace ∧ s.noWordAccepted t

/-! ### Requests that complete when accepted -/

/-- R84: INIT configures the lines in one step of its own, and changes nothing else. -/
def Obligations.InitConfiguresLines : Prop :=
  ∀ s : State, s.ready = true →
    exec .init s = .next
      { s with
        ir := 0x1000, cfg := true, stb := true, clk := true, dioOut := false, dir := true
        trace := s.trace ++ [⟨true, true, true, false, none⟩] }

/-- R85: LDP stores one cell; every other cell and everything else but `IR` is unchanged, with or without
configured lines. The premise on the store is its canonical form (log entry 10), which the invariant
keeps. -/
def Obligations.LdpStoresOneCell : Prop :=
  ∀ (i : Nibble) (v : Byte) (s : State), s.ready = true → Memory.wf s.pay →
    ∃ t, exec (.ldp i v) s = .next t ∧
      Memory.read t.pay i.toNat = v ∧
      (∀ j, j ≠ i.toNat → Memory.read t.pay j = Memory.read s.pay j) ∧
      t = { s with ir := 0x3000#16 ||| (i.setWidth 16 <<< 8) ||| v.setWidth 16, pay := t.pay }

/-- R112: the result of ENC over the whole operand range, and that nothing but `RES` and `IR` changes. The
result 0x00 of the operands above 31 is an inference the spec marks as its own (D14, U10), which the model
follows (log entry 9, DEDUCED); so is that of the negative ones in D14. -/
def Obligations.EncResultByRange : Prop :=
  ∀ (v : Byte) (s : State), s.ready = true →
    ∃ t, exec (.enc v) s = .next t ∧
      t = { s with ir := 0x7000 ||| v.setWidth 16, res := t.res } ∧
      t.res =
        (if 0 ≤ v.toInt ∧ v.toInt ≤ 15 then Config.segTable.getD v.toInt.toNat 0
         else if 16 ≤ v.toInt ∧ v.toInt ≤ 31 then Config.segTable.getD (v.toInt - 16).toNat 0 ||| 0x80
         else 0x00) ∧
      t.res =
        (if v.extractLsb' 5 3 = 0 then
          Config.segTable.getD (v.extractLsb' 0 4).toNat 0 ||| (if v.getLsbD 4 then 0x80 else 0x00)
         else 0x00)

/-- R113: ENC d answers the table byte with bit 7 clear, ENC (d+16) the same byte with bit 7 set; and ENC is
pure: every operand has the same result in every two states that accept it. -/
def Obligations.EncPointLaw : Prop :=
  (∀ (d : Nibble) (s : State), s.ready = true →
    ∃ t p, exec (.enc (d.setWidth 8)) s = .next t ∧ exec (.enc (d.setWidth 8 + 16)) s = .next p ∧
      t.res = Config.segTable.getD d.toNat 0 ∧ t.res.getLsbD 7 = false ∧
      p.res = t.res ||| 0x80 ∧ p.res ^^^ t.res = 0x80) ∧
  ∀ (v : Byte) (s u : State), s.ready = true → u.ready = true →
    ∃ t t', exec (.enc v) s = .next t ∧ exec (.enc v) u = .next t' ∧ t'.res = t.res

/-- R114: a glyph byte decodes uniquely to its digit and point, and no other byte is a digit. -/
def Obligations.GlyphsDecodeUniquely : Prop :=
  (∀ (g : Byte) (d : Nibble) (p : Bool),
    glyphOf g = .digit d p ↔ (g &&& 0x7F = segByte d ∧ p = g.getLsbD 7)) ∧
  (∀ g : Byte, glyphOf g = .blank ↔ g = 0x00) ∧
  (∀ d e : Nibble, segByte d = segByte e → d = e) ∧ (∀ d : Nibble, segByte d ≠ 0x00)

/-- R121, R122: SMP reports exactly the bits that were 1 in `LAST` and are 0 in the operand, remembers the
operand, and changes nothing else but `IR`; the three formulas are one function. -/
def Obligations.SmpReportsReleaseEdges : Prop :=
  ∀ (c : Byte) (s : State), s.ready = true →
    ∃ t, exec (.smp c) s = .next t ∧
      t = { s with ir := 0x8000 ||| c.setWidth 16, res := t.res, last := c } ∧
      t.res = (c ^^^ s.last) &&& ~~~c ∧
      t.res = ~~~c &&& (s.last ^^^ c) ∧
      t.res = s.last &&& ~~~c ∧
      ∀ j, j < 8 → t.res.getLsbD j = (s.last.getLsbD j && !c.getLsbD j)

/-- R123: the same sample again reports nothing. -/
def Obligations.SmpAgainReportsNothing : Prop :=
  ∀ (c : Byte) (s : State), s.ready = true →
    ∃ t, Result.andThen (exec (.smp c) s) (exec (.smp c)) = .next t ∧ t.res = 0x00 ∧ t.last = c

/-- R125: against the reset value of `LAST` no operand reports a release. -/
def Obligations.FirstSampleReportsNothing : Prop :=
  ∀ (c : Byte) (s : State), s.ready = true → s.last = State.reset.last →
    ∃ t, exec (.smp c) s = .next t ∧ t.res = 0x00 ∧ t.last = c

/-! ### Transport requests at acceptance, and faults -/

/-- R88 to R91, the `accept` line: with the lines configured SCMD, SBULK (n at most 16), SWR1 and RDBTN set
`BUSY`, put the sequencer at its first step and latch their word; RDBTN also clears `ACC` and `BTN`. Nothing
else changes. -/
def Obligations.TransportRequestsStartEngine : Prop :=
  ∀ s : State, s.ready = true → s.cfg = true →
    (∀ c : Byte, exec (.scmd c) s = .next
      { s with ir := 0x2000 ||| c.setWidth 16, busy := true, seq := ⟨.stbFall, 0, 0⟩ }) ∧
    (∀ (a : Nibble) (n : Byte), n.toNat ≤ 16 → exec (.sbulk a n) s = .next
      { s with
        ir := 0x4000#16 ||| (a.setWidth 16 <<< 8) ||| n.setWidth 16
        busy := true, seq := ⟨.stbFall, 0, 0⟩ }) ∧
    (∀ (a : Nibble) (v : Byte), exec (.swr1 a v) s = .next
      { s with
        ir := 0x5000#16 ||| (a.setWidth 16 <<< 8) ||| v.setWidth 16
        busy := true, seq := ⟨.stbFall, 0, 0⟩ }) ∧
    exec .rdbtn s = .next
      { s with ir := 0x6000, acc := 0x00, btn := 0x00, busy := true, seq := ⟨.stbFall, 0, 0⟩ }

/-- R152: a legal transport request with the lines not configured records `FLT = 2` and `IR`, nothing else;
INIT, LDP, ENC and SMP never raise it. -/
def Obligations.TransportNeedsConfiguredLines : Prop :=
  (∀ (i : Instr) (w : Word) (s : State), isTransport i = true → i.wellFormed = true →
    encode i = .request w → s.ready = true → s.cfg = false →
      exec i s = .next { s with flt := .notConfigured, ir := w }) ∧
  (∀ (i : Instr) (s t : State), (i = .init ∨ (∃ x v, i = .ldp x v) ∨ (∃ v, i = .enc v) ∨ ∃ c, i = .smp c) →
    exec i s = .next t → t.flt = s.flt) ∧
  FaultCode.notConfigured.bits = 2

/-- R154: the order of checks for a presented word. -/
def Obligations.ChecksInOrder : Prop :=
  ∀ (w : Word) (s : State),
    (s.flt ≠ .none → acceptWord w s = .next s) ∧
    (s.busy = true → acceptWord w s = .next s) ∧
    (s.ready = true → ∀ e, decodeRequest w = .error e →
      acceptWord w s = .next { s with flt := .illegalRequest, ir := w }) ∧
    (s.ready = true → ∀ i, decodeRequest w = .ok i → isTransport i = true → s.cfg = false →
      acceptWord w s = .next { s with flt := .notConfigured, ir := w }) ∧
    (s.ready = true → ∀ i, decodeRequest w = .ok i → (isTransport i = true → s.cfg = true) →
      ∃ t, acceptWord w s = .next t ∧ exec i s = .next t ∧ t.flt = .none ∧ t.ir = w)

/-- R89, R154: an SBULK with a count over 16 is illegal whether or not the lines are configured. -/
def Obligations.BulkCountOver16IsIllegal : Prop :=
  ∀ (a : Nibble) (n : Byte) (s : State), s.ready = true → 16 < n.toNat →
    exec (.sbulk a n) s = .next
      { s with flt := .illegalRequest, ir := 0x4000#16 ||| (a.setWidth 16 <<< 8) ||| n.setWidth 16 }

/-- A request executed on a block that is busy or faulted changes nothing at all. That `exec` of a request is
its presentation on the port is the model's reading of R154 and R61 (log entry 15, DEDUCED). -/
def Obligations.RequestsHoldUntilReady : Prop :=
  ∀ (i : Instr) (w : Word) (s : State), encode i = .request w → s.ready = false → exec i s = .next s

/-! ### Engine steps -/

/-- One half-step of a wire byte (R86): an even one sets the data latch to bit k and drops the clock, an odd
one raises the clock and leaves the data latch; one trace entry is added, the sequencer moves along its arrow
of R20, and nothing else changes. Whatever `STB` and `DIR` are, they stay. That one execution of a wire byte
performs one half-step, and that any of the five may be executed whatever byte the position holds, is the
model's choice (log entry 5, DESIGN CHOICE). -/
def Obligations.WireByteHalfStep : Prop :=
  ∀ (i : Instr) (v : Byte) (s : State), wireByte i = some v → s.busy = true → s.seq.ph = .tx →
    ∃ t, exec i s = .next t ∧
      t = { s with clk := t.clk, dioOut := t.dioOut, seq := t.seq, trace := t.trace } ∧
      (s.seq.hs.toNat % 2 = 0 → t.dioOut = v.getLsbD (s.seq.hs.toNat / 2) ∧ t.clk = false) ∧
      (s.seq.hs.toNat % 2 = 1 → t.dioOut = s.dioOut ∧ t.clk = true) ∧
      t.seq = (
        if s.seq.hs.toNat < 15 then ⟨.tx, s.seq.ix, s.seq.hs + 1⟩
        else if s.seq.ix.toNat + 1 < s.runningTx then ⟨.tx, s.seq.ix + 1, 0⟩
        else if s.running = some .rdbtn then ⟨.dirIn, 0, 0⟩
        else ⟨.stbRise, 0, 0⟩) ∧
      t.trace = s.trace ++ [⟨t.stb, t.clk, t.dir, t.dioOut, none⟩]

/-- The whole of `TxByte(v)` (R86): 16 executions of a wire byte append its 16 trace entries, bit k in
half-step 2k, and leave the clock high and the data latch at bit 7; the position has gone to the next byte,
to DirIn or to StbRise (R20). That a wire byte is an instruction which 16 executions send, whichever of the
five it is and whatever request runs, is the model's choice (log entry 5, DESIGN CHOICE). -/
def Obligations.WireByteInSixteenHalfSteps : Prop :=
  ∀ (i : Instr) (v : Byte) (s : State), wireByte i = some v → s.Inv → s.seq.ph = .tx → s.seq.hs = 0 →
    ∃ t, execTimes 16 i s = .next t ∧
      t = { s with
        clk := true
        dioOut := v.getLsbD 7
        seq :=
          if s.seq.ix.toNat + 1 < s.runningTx then ⟨.tx, s.seq.ix + 1, 0⟩
          else if s.running = some .rdbtn then ⟨.dirIn, 0, 0⟩
          else ⟨.stbRise, 0, 0⟩
        trace := s.trace ++ txEntries v }

/-- R69, R86: a wire byte is no request; while the engine is not transmitting its execution stops by name. -/
def Obligations.WireByteStopsOutsideTransmission : Prop :=
  ∀ (i : Instr) (v : Byte) (s : State), wireByte i = some v → (s.busy = false ∨ s.seq.ph ≠ .tx) →
    exec i s = .refused .wireByteOutsideTransmission

/-- The four framing procedures (R87). Each changes one line latch, adds one trace entry and moves the
sequencer (R20); StbRise, which ends a request, also clears `BUSY` and for RDBTN writes `RES` (R91). `CLK` and
`DIO_OUT` stay. That `IX` and `HS` are 0 after StbRise is the model's choice (log entry 17, DEDUCED). -/
def Obligations.FramingSteps : Prop :=
  ∀ (s : State) (d : Bool),
    (s.seq.ph = .stbFall → engineStep d s = .next
      { s with
        stb := false, seq := ⟨.tx, 0, 0⟩
        trace := s.trace ++ [⟨false, s.clk, s.dir, s.dioOut, none⟩] }) ∧
    (s.seq.ph = .dirIn → engineStep d s = .next
      { s with
        dir := false, seq := ⟨.rx, 0, 0⟩
        trace := s.trace ++ [⟨s.stb, s.clk, false, s.dioOut, none⟩] }) ∧
    (s.seq.ph = .dirOut → engineStep d s = .next
      { s with
        dir := true, seq := ⟨.stbRise, 0, 0⟩
        trace := s.trace ++ [⟨s.stb, s.clk, true, s.dioOut, none⟩] }) ∧
    (s.seq.ph = .stbRise → engineStep d s = .next
      { s with
        stb := true, busy := false, seq := ⟨.idle, 0, 0⟩
        res := if s.running = some .rdbtn then s.btn else s.res
        trace := s.trace ++ [⟨true, s.clk, s.dir, s.dioOut, none⟩] })

/-- R92, one half-step of a slot. -/
def Obligations.ReceiveHalfStep : Prop :=
  ∀ (s : State) (d : Bool), s.seq.ph = .rx → s.seq.ix.toNat < 4 →
    ∃ t, engineStep d s = .next t ∧
      t = { s with clk := t.clk, acc := t.acc, btn := t.btn, seq := t.seq, trace := t.trace } ∧
      (s.seq.hs.toNat % 2 = 0 → t.clk = false ∧ t.acc = s.acc ∧ t.btn = s.btn ∧
        t.trace = s.trace ++ [⟨s.stb, false, s.dir, s.dioOut, none⟩]) ∧
      (s.seq.hs.toNat % 2 = 1 → t.clk = true ∧ t.acc = (s.acc <<< 1) ||| (BitVec.ofBool d).setWidth 8 ∧
        (s.seq.hs.toNat < 15 → t.btn = s.btn) ∧
        (s.seq.hs.toNat = 15 → t.btn = s.btn ||| (t.acc >>> s.seq.ix.toNat)) ∧
        t.trace = s.trace ++ [⟨s.stb, true, s.dir, s.dioOut, some d⟩])

/-- R42, R92: the 16 half-steps of a slot leave the k-th bit drawn at bit 7-k of `ACC`, whatever `ACC` held,
and join the slot byte, shifted right by the slot index, to `BTN`; the trace shows the clock falling in the
even half-steps, rising in the odd ones, and the bits drawn there. -/
def Obligations.SlotFirstBitIsTopBit : Prop :=
  ∀ (s : State) (ds : List Bool), s.Inv → s.seq.ph = .rx → s.seq.hs = 0 → ds.length = 16 →
    ∃ t, engineRun ds s = .next t ∧
      (∀ k, k < 8 → t.acc.getLsbD (7 - k) = ds.getD (2 * k + 1) false) ∧
      t.acc = slotByte ds ∧
      t.btn = s.btn ||| (t.acc >>> s.seq.ix.toNat) ∧
      t.seq = (if s.seq.ix.toNat < 3 then ⟨.rx, s.seq.ix + 1, 0⟩ else ⟨.dirOut, 0, 0⟩) ∧
      t.trace = s.trace ++ rxEntries s.dioOut ds ∧
      t = { s with clk := true, acc := t.acc, btn := t.btn, seq := t.seq, trace := t.trace }

/-- R20: the transition table of the sequencer, the arrow of acceptance and one arrow per engine step; `IX`
never exceeds 17, and the arrow from `STB_RISE` clears `BUSY`. Of the last arrow only the phase is stated, as
R20 writes it. -/
def Obligations.SequencerTable : Prop :=
  (∀ (i : Instr) (w : Word) (s : State), isTransport i = true → i.wellFormed = true →
    encode i = .request w → s.ready = true → s.cfg = true →
      ∃ t, exec i s = .next t ∧ t.seq = ⟨.stbFall, 0, 0⟩ ∧ t.runningTx = nTx i) ∧
  ∀ (s t : State) (d : Bool), s.Inv → s.busy = true → engineStep d s = .next t →
    t.seq.ix.toNat ≤ 17 ∧ (s.seq.ph = .stbRise ↔ t.busy = false) ∧
    match s.seq.ph with
    | .idle => False
    | .stbFall => t.seq = ⟨.tx, 0, 0⟩
    | .tx =>
      t.seq =
        if s.seq.hs.toNat < 15 then ⟨.tx, s.seq.ix, s.seq.hs + 1⟩
        else if s.seq.ix.toNat + 1 < s.runningTx then ⟨.tx, s.seq.ix + 1, 0⟩
        else if s.running = some .rdbtn then ⟨.dirIn, 0, 0⟩
        else ⟨.stbRise, 0, 0⟩
    | .dirIn => t.seq = ⟨.rx, 0, 0⟩
    | .rx =>
      t.seq =
        if s.seq.hs.toNat < 15 then ⟨.rx, s.seq.ix, s.seq.hs + 1⟩
        else if s.seq.ix.toNat < 3 then ⟨.rx, s.seq.ix + 1, 0⟩
        else ⟨.dirOut, 0, 0⟩
    | .dirOut => t.seq = ⟨.stbRise, 0, 0⟩
    | .stbRise => t.seq.ph = .idle

/-! ### Whole transactions -/

/-- R88: SCMD c from an idle configured block, 18 engine steps later: one strobe window with the byte c,
`BUSY` back to 0, `RES` and everything else unchanged. -/
def Obligations.ScmdTransaction : Prop :=
  ∀ (c : Byte) (s : State) (ds : List Bool), s.Inv → s.ready = true → s.cfg = true → ds.length = 18 →
    Result.andThen (exec (.scmd c) s) (engineRun ds) = .next
      { s with
        ir := 0x2000 ||| c.setWidth 16
        dioOut := c.getLsbD 7
        trace := s.trace ++ (⟨false, true, true, s.dioOut, none⟩ :: txEntries c) ++
          [⟨true, true, true, c.getLsbD 7, none⟩] }

/-- SWR1 a, v, 50 engine steps: the bytes 0x44, 0xC0 OR a, v in one strobe window. The spec marks the form
as one its source does not show in use (U9, D9, D10; log entry 9). -/
def Obligations.SingleWriteTransaction : Prop :=
  ∀ (a : Nibble) (v : Byte) (s : State) (ds : List Bool),
    s.Inv → s.ready = true → s.cfg = true → ds.length = 50 →
    Result.andThen (exec (.swr1 a v) s) (engineRun ds) = .next
      { s with
        ir := 0x5000#16 ||| (a.setWidth 16 <<< 8) ||| v.setWidth 16
        dioOut := v.getLsbD 7
        trace := s.trace ++
          (⟨false, true, true, s.dioOut, none⟩ ::
            (txEntries 0x44 ++ txEntries (0xC0 ||| a.setWidth 8) ++ txEntries v)) ++
          [⟨true, true, true, v.getLsbD 7, none⟩] }

/-- SBULK a, n, 34 + 16n engine steps: the bytes 0x40, 0xC0 OR a and the first n payload cells in one strobe
window; the payload is not changed. The spec marks `a` other than 0 and `n` under 16 as forms its source
does not show (U9, D28; log entry 9). -/
def Obligations.BulkWriteTransaction : Prop :=
  ∀ (a : Nibble) (n : Byte) (s : State) (ds : List Bool),
    s.Inv → s.ready = true → s.cfg = true → n.toNat ≤ 16 → ds.length = 34 + 16 * n.toNat →
    let bytes : List Byte :=
      [0x40, 0xC0 ||| a.setWidth 8] ++ (List.range n.toNat).map (fun j => Memory.read s.pay j)
    let level := (bytes.getLastD 0).getLsbD 7
    Result.andThen (exec (.sbulk a n) s) (engineRun ds) = .next
      { s with
        ir := 0x4000#16 ||| (a.setWidth 16 <<< 8) ||| n.setWidth 16
        dioOut := level
        trace := s.trace ++ (⟨false, true, true, s.dioOut, none⟩ :: bytes.flatMap txEntries) ++
          [⟨true, true, true, level, none⟩] }

/-- R91: RDBTN, 84 engine steps, for every level of the data pin at each of them: `RES` is the union of the
four slot bytes, slot s shifted right by s; `ACC` is the last slot byte and `BTN` the union; the wire
carries 0x42; `LAST` and the payload are not touched. -/
def Obligations.ButtonReadTransaction : Prop :=
  ∀ (s : State) (ds : List Bool), s.Inv → s.ready = true → s.cfg = true → ds.length = 84 →
    let b := fun k => slotByte ((ds.drop (18 + 16 * k)).take 16)
    let union := (b 0) ||| (b 1 >>> 1) ||| (b 2 >>> 2) ||| (b 3 >>> 3)
    Result.andThen (exec .rdbtn s) (engineRun ds) = .next
      { s with
        ir := 0x6000
        res := union, acc := b 3, btn := union
        dioOut := false
        trace := s.trace ++ (⟨false, true, true, s.dioOut, none⟩ :: txEntries 0x42) ++
          (⟨false, true, false, false, none⟩ ::
            ((List.range 4).flatMap fun k => rxEntries false ((ds.drop (18 + 16 * k)).take 16))) ++
          [⟨false, true, true, false, none⟩, ⟨true, true, true, false, none⟩] }

/-- R9: the wire byte sequence read from the trace of one strobe window is the list of the bytes
transmitted in it, and for a button read the one byte transmitted. -/
def Obligations.TraceCarriesWireBytes : Prop :=
  ∀ (bytes : List Byte) (dio level : Bool),
    wireBytes ((⟨false, true, true, dio, none⟩ :: bytes.flatMap txEntries) ++
      [⟨true, true, true, level, none⟩]) = [bytes] ∧
    ∀ (v : Byte) (slots : List (List Bool)),
      wireBytes ((⟨false, true, true, dio, none⟩ :: txEntries v) ++
        (⟨false, true, false, level, none⟩ :: slots.flatMap (rxEntries level)) ++
        [⟨false, true, true, level, none⟩, ⟨true, true, true, level, none⟩]) = [[v]]

/-! ### The step -/

/-- A step that accepts a word runs the instruction the word decodes to, on the state from which the edge
and the word have been taken. -/
def Obligations.StepRunsAcceptedRequest : Prop :=
  ∀ (s : State) (w : Word) (ws : List Word) (i : Instr),
    s.edgeInput.rst = false → s.edgeInput.present = true → s.ready = true → s.requests = w :: ws →
    decodeRequest w = .ok i →
      step s = exec i
        { s with
          requests := ws
          env := s.env.tail
          edge := if s.env = [] then s.edge + 1 else s.edge }

/-- A step of a transmitting engine whose position holds a wire command byte runs that wire byte; before it
only the edge, and the word the host gives up, are taken. That the engine executes the byte at its position as
an instruction is the model's choice (log entry 5, DESIGN CHOICE). -/
def Obligations.StepRunsWireByte : Prop :=
  ∀ (s : State) (i : Instr),
    s.edgeInput.rst = false → s.edgeInput.tick = true → s.busy = true → s.seq.ph = .tx →
    s.currentItem = some (.command i) →
      step s = exec i
        { s with
          requests := if s.edgeInput.giveUp then s.requests.tail else s.requests
          givenUp := if s.edgeInput.giveUp then s.givenUp ++ s.requests.take 1 else s.givenUp
          env := s.env.tail
          edge := if s.env = [] then s.edge + 1 else s.edge }

/-- R151: a step that accepts an illegal word records `FLT = 1` and the word, and changes nothing else of
the block. -/
def Obligations.StepRejectsIllegalWord : Prop :=
  ∀ (s : State) (w : Word) (ws : List Word),
    s.edgeInput.rst = false → s.edgeInput.present = true → s.ready = true → s.requests = w :: ws →
    (∃ e, decodeRequest w = .error e) →
      FaultCode.illegalRequest.bits = 1 ∧
      step s = .next
        { s with
          flt := .illegalRequest, ir := w
          requests := ws
          env := s.env.tail
          edge := if s.env = [] then s.edge + 1 else s.edge }

/-- R81: a busy block takes exactly the engine step at an edge with a tick, drawing the level of the data
pin at that edge. -/
def Obligations.StepTicksEngine : Prop :=
  ∀ s : State, s.edgeInput.rst = false → s.busy = true → s.edgeInput.tick = true →
    step s = engineStep s.edgeInput.dio
      { s with
        requests := if s.edgeInput.giveUp then s.requests.tail else s.requests
        givenUp := if s.edgeInput.giveUp then s.givenUp ++ s.requests.take 1 else s.givenUp
        env := s.env.tail
        edge := if s.env = [] then s.edge + 1 else s.edge }

/-- R184: without a tick a busy block stays as it is, and no request is accepted. -/
def Obligations.BusyBlockWaitsForTick : Prop :=
  ∀ s : State, s.edgeInput.rst = false → s.busy = true → s.edgeInput.tick = false →
    ∃ t, step s = .next t ∧ s.sameBlock t ∧ s.noWordAccepted t

/-- R155: a fault stays, and with it the whole block, at every edge without a reset, and no request is
accepted: the host's words stay, but for one it gives up. -/
def Obligations.FaultedBlockStands : Prop :=
  ∀ s : State, s.Inv → s.flt ≠ .none → s.edgeInput.rst = false →
    ∃ t, step s = .next t ∧ s.sameBlock t ∧ s.noWordAccepted t ∧ t.ready = false

/-- R61, R49: what the host presents makes no difference to a block that is not ready: with other words
waiting, a step does the same and leaves the other words, but for one the host gives up. -/
def Obligations.WaitingWordsDoNotMatter : Prop :=
  ∀ (s t : State) (ws : List Word), s.ready = false → step s = .next t →
    ∃ u, step { s with requests := ws } = .next u ∧
      u = { t with requests := u.requests, givenUp := u.givenUp } ∧
      State.noWordAccepted { s with requests := ws } u

/-! ### Ports -/

/-- R23: the bits of `STATUS`. -/
def Obligations.StatusBits : Prop :=
  ∀ s : State,
    s.status.getLsbD 0 = s.busy ∧ s.status.getLsbD 1 = s.cfg ∧
    s.status.extractLsb' 2 2 = s.flt.bits ∧ s.status.extractLsb' 4 4 = 0

/-- R25, R18, R19: what the output ports show. -/
def Obligations.OutputPorts : Prop :=
  ∀ s : State,
    (s.outputs.reqReady = true ↔ s.busy = false ∧ s.flt.bits = 0) ∧
    s.outputs.res = s.res ∧ s.outputs.status = s.status ∧ s.outputs.ir = s.ir ∧
    s.outputs.stbO = s.stb ∧ s.outputs.stbOe = s.cfg ∧
    s.outputs.clkO = s.clk ∧ s.outputs.clkOe = s.cfg ∧
    s.outputs.dioO = s.dioOut ∧ (s.outputs.dioOe = true ↔ s.cfg = true ∧ s.dir = true)

/-! ### Whole-machine rules -/

/-- The invariant holds after reset. -/
def Obligations.InvariantHoldsAtReset : Prop := State.reset.Inv

/-- The invariant is kept by every step, from every state that meets it. -/
def Obligations.StepKeepsInvariant : Prop :=
  ∀ s t : State, s.Inv → step s = .next t → t.Inv

/-- From every state that meets the invariant a step answers a next state: no fault and no refusal of the
model is reached. -/
def Obligations.StepNeverStops : Prop :=
  ∀ s : State, s.Inv → ∃ t, step s = .next t

/-- R94: every engine step brings the end of the transaction one step nearer, whatever the data pin and the
host do, and the block is busy exactly while steps are left. -/
def Obligations.EveryTickBringsTheEndNearer : Prop :=
  ∀ s : State, s.Inv →
    (s.busy = true ↔ s.stepsLeft ≠ 0) ∧
    (s.busy = true → s.edgeInput.rst = false → s.edgeInput.tick = true →
      ∃ t, step s = .next t ∧ t.stepsLeft + 1 = s.stepsLeft)

/-- R182: an accepted transport request has exactly its number of engine steps before it, and a request
that is no transport has none. -/
def Obligations.EngineStepCounts : Prop :=
  ∀ (i : Instr) (w : Word) (s t : State), s.Inv → s.ready = true → s.cfg = true → i.wellFormed = true →
    encode i = .request w → exec i s = .next t →
      t.stepsLeft =
        match i with
        | .scmd _ => 18
        | .sbulk _ n => 34 + 16 * n.toNat
        | .swr1 _ _ => 50
        | .rdbtn => 84
        | _ => 0

/-- R93: while a transaction is open no request is accepted: at an edge without a reset the request
register, the payload, `LAST` and `CFG` stay, and the host's words stay but for one it gives up. -/
def Obligations.OpenTransactionIsNotInterrupted : Prop :=
  ∀ s t : State, s.Inv → s.busy = true → s.edgeInput.rst = false → step s = .next t →
    t.ir = s.ir ∧ t.pay = s.pay ∧ t.last = s.last ∧ t.cfg = s.cfg ∧ t.flt = s.flt ∧ s.noWordAccepted t

/-- R19: nothing but reset clears `CFG`, and nothing but INIT sets it. -/
def Obligations.OnlyInitSetsOnlyResetClearsCfg : Prop :=
  ∀ s t : State, s.Inv → step s = .next t → t.cfg ≠ s.cfg →
    (s.edgeInput.rst = true ∧ t.cfg = false) ∨ (t.ir = 0x1000 ∧ t.cfg = true ∧ s.ready = true)

/-- R12: `LAST` is written only by SMP and by reset, and by SMP with its operand. -/
def Obligations.OnlySmpWritesLast : Prop :=
  ∀ s t : State, s.Inv → step s = .next t → s.edgeInput.rst = false → t.last ≠ s.last →
    s.ready = true ∧ t.ir = 0x8000 ||| t.last.setWidth 16

/-- R11: `RES` is written only by ENC, by SMP and by the StbRise step of RDBTN. -/
def Obligations.OnlyThreeRequestsWriteRes : Prop :=
  ∀ s t : State, s.Inv → step s = .next t → s.edgeInput.rst = false → t.res ≠ s.res →
    (s.ready = true ∧ ∃ v : Byte, t.ir = 0x7000 ||| v.setWidth 16) ∨
    (s.ready = true ∧ ∃ c : Byte, t.ir = 0x8000 ||| c.setWidth 16) ∨
    (s.seq.ph = .stbRise ∧ s.ir = 0x6000 ∧ t.res = s.btn ∧ t.busy = false)

/-- R24: a payload cell is written only by the LDP that names it, with its operand. -/
def Obligations.OnlyLdpWritesPayload : Prop :=
  ∀ (s t : State) (j : Nat), s.Inv → step s = .next t → s.edgeInput.rst = false →
    Memory.read t.pay j ≠ Memory.read s.pay j →
      s.ready = true ∧ ∃ (i : Nibble) (v : Byte), j = i.toNat ∧ Memory.read t.pay j = v ∧
        t.ir = 0x3000#16 ||| (i.setWidth 16 <<< 8) ||| v.setWidth 16

/-- An instruction that is no LDP leaves every payload cell as it was, whatever state it is executed in. -/
def Obligations.NonLdpKeepsPayload : Prop :=
  ∀ (i : Instr) (s t : State), (∀ x v, i ≠ .ldp x v) → exec i s = .next t →
    ∀ j, Memory.read t.pay j = Memory.read s.pay j

/-- R9: a step appends at most one entry to the pin trace, which holds the latches after it. -/
def Obligations.TraceGrowsByOneEntry : Prop :=
  ∀ s t : State, step s = .next t →
    t.trace = s.trace ∨
    ∃ d, t.trace = s.trace ++ [⟨t.stb, t.clk, t.dir, t.dioOut, d⟩] ∧
      (d = none ∨ d = some s.edgeInput.dio)

/-- R183: a finished run stands at the idle levels. And every word of its list was accepted: at each edge the
head of the host's list is accepted by a ready block (it is then the word in `IR`), or it is recorded as given
up, or the lists stay, and a state with a word recorded is no end of a run. That the lists outlive a reset is
the model's choice (log entry 2). -/
def Obligations.FinishedRunIsIdle : Prop :=
  (∀ s : State, s.Inv → s.runOver →
    s.seq.ph = .idle ∧ s.stb = true ∧ s.dir = true ∧ s.clk = true ∧ s.requests = []) ∧
  (∀ s t : State, step s = .next t →
    (t.requests = s.requests ∧ t.givenUp = s.givenUp) ∨
    (∃ w, s.requests = w :: t.requests ∧ t.givenUp = s.givenUp ∧ s.ready = true ∧ t.ir = w ∧
      s.edgeInput.rst = false ∧ s.edgeInput.present = true) ∨
    (∃ w, s.requests = w :: t.requests ∧ t.givenUp = s.givenUp ++ [w] ∧ s.edgeInput.giveUp = true ∧
      ¬ t.runOver))

/-! ### Host sequences -/

/-- R134: SETLEDS rewrites the eight LED cells in reverse bit order and leaves the even cells. -/
def Obligations.SetLedsReversesBits : Prop :=
  ∀ (d : Driver) (m : Byte), Memory.wf d.db →
    (∀ i, i < 8 → Memory.read (d.setLeds m).db ((7 - i) * 2 + 1) = if m.getLsbD i then 0x01 else 0x00) ∧
    (∀ j, j % 2 = 0 → Memory.read (d.setLeds m).db j = Memory.read d.db j)

/-- SETDIGIT (R135, R130), whatever the block is doing: the ENC is presented until the running transaction has
ended, its result is waited for, and cell 2p receives it; the other cells stay. With fewer levels than the
transaction needs, and on a faulted block, the ENC is still presented and nothing else has happened. -/
def Obligations.SetDigitWaitsAndWrites : Prop :=
  ∀ (d : Driver) (p : Fin 4) (v : Byte) (s : State) (ds : List Bool), Memory.wf d.db → s.Inv →
    (s.flt = .none → ds.length = s.stepsLeft →
      ∃ t u e, engineRun ds s = .next t ∧ t.ready = true ∧ exec (.enc v) t = .next u ∧
        (∀ es, d.setDigit p v (ds ++ es) s = .done e u es) ∧ e.fm = d.fm ∧
        Memory.read e.db (2 * p.val) = u.res ∧
        ∀ j, j ≠ 2 * p.val → Memory.read e.db j = Memory.read d.db j) ∧
    (s.flt = .none → ds.length < s.stepsLeft →
      ∃ t, engineRun ds s = .next t ∧ t.busy = true ∧ d.setDigit p v ds s = .presenting (.enc v) t) ∧
    (s.flt ≠ .none → d.setDigit p v ds s = .presenting (.enc v) s)

/-- SETTIMER (R136) on a ready block: from 0 to 5999 seconds the four timer cells, written with the results of
four ENC requests, read back as the minutes and seconds, with the point on cell 10 exactly when the unit digit
of the seconds is even; a negative time blanks the four cells and issues nothing; the other cells, and of the
block everything but `RES` and `IR`, stay. At 6000 seconds and above there is no answer, as U17 asks of a
model; that bound is the model's (log entry 14). -/
def Obligations.SetTimerReadsBack : Prop :=
  ∀ (d : Driver) (s : State) (ds : List Bool), Memory.wf d.db → s.ready = true →
    (∀ z : Nat, z < 6000 →
      ∃ e t, d.setTimer (z : Int) ds s = some (.done e t ds) ∧
        t = { s with ir := t.ir, res := t.res } ∧ e.fm = d.fm ∧
        glyphOf (Memory.read e.db 8) = .digit (BitVec.ofNat 4 (z / 60 / 10)) false ∧
        glyphOf (Memory.read e.db 10) = .digit (BitVec.ofNat 4 (z / 60 % 10)) (z % 60 % 10 % 2 == 0) ∧
        glyphOf (Memory.read e.db 12) = .digit (BitVec.ofNat 4 (z % 60 / 10)) false ∧
        glyphOf (Memory.read e.db 14) = .digit (BitVec.ofNat 4 (z % 60 % 10)) false ∧
        ∀ j, j ≠ 8 → j ≠ 10 → j ≠ 12 → j ≠ 14 → Memory.read e.db j = Memory.read d.db j) ∧
    (∀ z : Int, z < 0 →
      ∃ e, d.setTimer z ds s = some (.done e s ds) ∧ e.fm = d.fm ∧
        Memory.read e.db 8 = 0x00 ∧ Memory.read e.db 10 = 0x00 ∧ Memory.read e.db 12 = 0x00 ∧
        Memory.read e.db 14 = 0x00 ∧
        ∀ j, j ≠ 8 → j ≠ 10 → j ≠ 12 → j ≠ 14 → Memory.read e.db j = Memory.read d.db j) ∧
    (∀ z : Int, 6000 ≤ z → d.setTimer z ds s = none)

/-- FLUSH (R137) on an idle configured block, with the 290 levels its SBULK takes: the image is the buffer with,
in the even half-periods of 500 ms, the LED cells of the FlashMask dark; afterwards the payload reads as the
image, and one strobe window has carried 0x40, 0xC0 and its 16 bytes; everything else but `IR` and `DIO_OUT`
is unchanged. That FlashMask bit i names the cell of SETLEDS bit i is the spec's own choice (D23). -/
def Obligations.FlushSendsImage : Prop :=
  ∀ (d : Driver) (now : Nat), Memory.wf d.db →
    (∀ i, i < 8 → Memory.read (d.image now) ((7 - i) * 2 + 1) =
      if (now / 500) % 2 = 0 ∧ d.fm.getLsbD i = true then 0x00
      else Memory.read d.db ((7 - i) * 2 + 1)) ∧
    (∀ j, j % 2 = 0 → Memory.read (d.image now) j = Memory.read d.db j) ∧
    ∀ (s : State) (ds : List Bool), s.Inv → s.ready = true → s.cfg = true → ds.length = 290 →
      let bytes : List Byte :=
        [0x40, 0xC0] ++ (List.range 16).map (fun j => Memory.read (d.image now) j)
      let level := (bytes.getLastD 0).getLsbD 7
      ∃ t, d.flush now ds s = .done () t [] ∧
        (∀ j, j < 16 → Memory.read t.pay j = Memory.read (d.image now) j) ∧
        t = { s with
          ir := 0x4010
          pay := t.pay
          dioOut := level
          trace := s.trace ++ (⟨false, true, true, s.dioOut, none⟩ :: bytes.flatMap txEntries) ++
            [⟨true, true, true, level, none⟩] }

/-- POLL (R139) on an idle configured block, with the levels of the data pin at the 84 engine steps of the
read: `LAST` becomes the byte read, and the answer, which is in `RES`, the release edges against the old
`LAST`. -/
def Obligations.PollReportsReleases : Prop :=
  ∀ (s : State) (ds : List Bool), s.Inv → s.ready = true → s.cfg = true → ds.length = 84 →
    let b := fun k => slotByte ((ds.drop (18 + 16 * k)).take 16)
    let sample := (b 0) ||| (b 1 >>> 1) ||| (b 2 >>> 2) ||| (b 3 >>> 3)
    ∃ t, poll ds s = .done (s.last &&& ~~~sample) t [] ∧
      t.last = sample ∧ t.res = s.last &&& ~~~sample ∧ t.busy = false ∧ t.flt = .none
end

