-- ==== Sys2Proof/Laws/Decode.lean ====
section
/-! SUPPORT. The fields of a request word: taking a word apart and putting it together are inverse. -/

namespace Sys2Proof

@[simp] theorem opField_requestWord (op x : Nibble) (imm : Byte) :
    opField (requestWord op x imm) = op := by
  apply BitVec.eq_of_getLsbD_eq
  intro i hi
  interval_cases i <;> simp [opField, requestWord]

@[simp] theorem xField_requestWord (op x : Nibble) (imm : Byte) :
    xField (requestWord op x imm) = x := by
  apply BitVec.eq_of_getLsbD_eq
  intro i hi
  interval_cases i <;> simp [xField, requestWord]

@[simp] theorem immField_requestWord (op x : Nibble) (imm : Byte) :
    immField (requestWord op x imm) = imm := by
  apply BitVec.eq_of_getLsbD_eq
  intro i hi
  interval_cases i <;> simp [immField, requestWord]

/-- Every word is made of its three fields. -/
theorem requestWord_fields (w : Word) :
    requestWord (opField w) (xField w) (immField w) = w := by
  apply BitVec.eq_of_getLsbD_eq
  intro i hi
  simp only [opField, xField, immField, requestWord, BitVec.getLsbD_or, BitVec.getLsbD_shiftLeft,
    BitVec.getLsbD_setWidth, BitVec.getLsbD_extractLsb']
  interval_cases i <;> simp

end Sys2Proof
end

