-- ==== Sys2Proof/Laws/State.lean ====
section
/-! SUPPORT. What each update of the state does to each field: one lemma per field per update. -/

namespace Sys2Proof.Machine

variable (s : State)

/-! ### `State.record` -/

@[simp] theorem record_res (d : Option Bool) :
    (s.record d).res = s.res := rfl
@[simp] theorem record_last (d : Option Bool) :
    (s.record d).last = s.last := rfl
@[simp] theorem record_acc (d : Option Bool) :
    (s.record d).acc = s.acc := rfl
@[simp] theorem record_btn (d : Option Bool) :
    (s.record d).btn = s.btn := rfl
@[simp] theorem record_ir (d : Option Bool) :
    (s.record d).ir = s.ir := rfl
@[simp] theorem record_stb (d : Option Bool) :
    (s.record d).stb = s.stb := rfl
@[simp] theorem record_clk (d : Option Bool) :
    (s.record d).clk = s.clk := rfl
@[simp] theorem record_dioOut (d : Option Bool) :
    (s.record d).dioOut = s.dioOut := rfl
@[simp] theorem record_dir (d : Option Bool) :
    (s.record d).dir = s.dir := rfl
@[simp] theorem record_cfg (d : Option Bool) :
    (s.record d).cfg = s.cfg := rfl
@[simp] theorem record_seq (d : Option Bool) :
    (s.record d).seq = s.seq := rfl
@[simp] theorem record_busy (d : Option Bool) :
    (s.record d).busy = s.busy := rfl
@[simp] theorem record_flt (d : Option Bool) :
    (s.record d).flt = s.flt := rfl
@[simp] theorem record_pay (d : Option Bool) :
    (s.record d).pay = s.pay := rfl
@[simp] theorem record_requests (d : Option Bool) :
    (s.record d).requests = s.requests := rfl
@[simp] theorem record_givenUp (d : Option Bool) :
    (s.record d).givenUp = s.givenUp := rfl
@[simp] theorem record_env (d : Option Bool) :
    (s.record d).env = s.env := rfl
@[simp] theorem record_edge (d : Option Bool) :
    (s.record d).edge = s.edge := rfl
@[simp] theorem record_trace (d : Option Bool) :
    (s.record d).trace = s.trace ++ [⟨s.stb, s.clk, s.dir, s.dioOut, d⟩] := rfl

/-! ### `State.raise` -/

@[simp] theorem raise_res (f : FaultCode) (w : Word) :
    (s.raise f w).res = s.res := rfl
@[simp] theorem raise_last (f : FaultCode) (w : Word) :
    (s.raise f w).last = s.last := rfl
@[simp] theorem raise_acc (f : FaultCode) (w : Word) :
    (s.raise f w).acc = s.acc := rfl
@[simp] theorem raise_btn (f : FaultCode) (w : Word) :
    (s.raise f w).btn = s.btn := rfl
@[simp] theorem raise_ir (f : FaultCode) (w : Word) :
    (s.raise f w).ir = w := rfl
@[simp] theorem raise_stb (f : FaultCode) (w : Word) :
    (s.raise f w).stb = s.stb := rfl
@[simp] theorem raise_clk (f : FaultCode) (w : Word) :
    (s.raise f w).clk = s.clk := rfl
@[simp] theorem raise_dioOut (f : FaultCode) (w : Word) :
    (s.raise f w).dioOut = s.dioOut := rfl
@[simp] theorem raise_dir (f : FaultCode) (w : Word) :
    (s.raise f w).dir = s.dir := rfl
@[simp] theorem raise_cfg (f : FaultCode) (w : Word) :
    (s.raise f w).cfg = s.cfg := rfl
@[simp] theorem raise_seq (f : FaultCode) (w : Word) :
    (s.raise f w).seq = s.seq := rfl
@[simp] theorem raise_busy (f : FaultCode) (w : Word) :
    (s.raise f w).busy = s.busy := rfl
@[simp] theorem raise_flt (f : FaultCode) (w : Word) :
    (s.raise f w).flt = f := rfl
@[simp] theorem raise_pay (f : FaultCode) (w : Word) :
    (s.raise f w).pay = s.pay := rfl
@[simp] theorem raise_requests (f : FaultCode) (w : Word) :
    (s.raise f w).requests = s.requests := rfl
@[simp] theorem raise_givenUp (f : FaultCode) (w : Word) :
    (s.raise f w).givenUp = s.givenUp := rfl
@[simp] theorem raise_env (f : FaultCode) (w : Word) :
    (s.raise f w).env = s.env := rfl
@[simp] theorem raise_edge (f : FaultCode) (w : Word) :
    (s.raise f w).edge = s.edge := rfl
@[simp] theorem raise_trace (f : FaultCode) (w : Word) :
    (s.raise f w).trace = s.trace := rfl

/-! ### `State.latch` -/

@[simp] theorem latch_res (w : Word) :
    (s.latch w).res = s.res := rfl
@[simp] theorem latch_last (w : Word) :
    (s.latch w).last = s.last := rfl
@[simp] theorem latch_acc (w : Word) :
    (s.latch w).acc = s.acc := rfl
@[simp] theorem latch_btn (w : Word) :
    (s.latch w).btn = s.btn := rfl
@[simp] theorem latch_ir (w : Word) :
    (s.latch w).ir = w := rfl
@[simp] theorem latch_stb (w : Word) :
    (s.latch w).stb = s.stb := rfl
@[simp] theorem latch_clk (w : Word) :
    (s.latch w).clk = s.clk := rfl
@[simp] theorem latch_dioOut (w : Word) :
    (s.latch w).dioOut = s.dioOut := rfl
@[simp] theorem latch_dir (w : Word) :
    (s.latch w).dir = s.dir := rfl
@[simp] theorem latch_cfg (w : Word) :
    (s.latch w).cfg = s.cfg := rfl
@[simp] theorem latch_seq (w : Word) :
    (s.latch w).seq = s.seq := rfl
@[simp] theorem latch_busy (w : Word) :
    (s.latch w).busy = s.busy := rfl
@[simp] theorem latch_flt (w : Word) :
    (s.latch w).flt = s.flt := rfl
@[simp] theorem latch_pay (w : Word) :
    (s.latch w).pay = s.pay := rfl
@[simp] theorem latch_requests (w : Word) :
    (s.latch w).requests = s.requests := rfl
@[simp] theorem latch_givenUp (w : Word) :
    (s.latch w).givenUp = s.givenUp := rfl
@[simp] theorem latch_env (w : Word) :
    (s.latch w).env = s.env := rfl
@[simp] theorem latch_edge (w : Word) :
    (s.latch w).edge = s.edge := rfl
@[simp] theorem latch_trace (w : Word) :
    (s.latch w).trace = s.trace := rfl

/-! ### `State.startEngine` -/

@[simp] theorem startEngine_res :
    (s.startEngine).res = s.res := rfl
@[simp] theorem startEngine_last :
    (s.startEngine).last = s.last := rfl
@[simp] theorem startEngine_acc :
    (s.startEngine).acc = s.acc := rfl
@[simp] theorem startEngine_btn :
    (s.startEngine).btn = s.btn := rfl
@[simp] theorem startEngine_ir :
    (s.startEngine).ir = s.ir := rfl
@[simp] theorem startEngine_stb :
    (s.startEngine).stb = s.stb := rfl
@[simp] theorem startEngine_clk :
    (s.startEngine).clk = s.clk := rfl
@[simp] theorem startEngine_dioOut :
    (s.startEngine).dioOut = s.dioOut := rfl
@[simp] theorem startEngine_dir :
    (s.startEngine).dir = s.dir := rfl
@[simp] theorem startEngine_cfg :
    (s.startEngine).cfg = s.cfg := rfl
@[simp] theorem startEngine_seq :
    (s.startEngine).seq = ⟨.stbFall, 0, 0⟩ := rfl
@[simp] theorem startEngine_busy :
    (s.startEngine).busy = true := rfl
@[simp] theorem startEngine_flt :
    (s.startEngine).flt = s.flt := rfl
@[simp] theorem startEngine_pay :
    (s.startEngine).pay = s.pay := rfl
@[simp] theorem startEngine_requests :
    (s.startEngine).requests = s.requests := rfl
@[simp] theorem startEngine_givenUp :
    (s.startEngine).givenUp = s.givenUp := rfl
@[simp] theorem startEngine_env :
    (s.startEngine).env = s.env := rfl
@[simp] theorem startEngine_edge :
    (s.startEngine).edge = s.edge := rfl
@[simp] theorem startEngine_trace :
    (s.startEngine).trace = s.trace := rfl

/-! ### `State.clearReceiver` -/

@[simp] theorem clearReceiver_res :
    (s.clearReceiver).res = s.res := rfl
@[simp] theorem clearReceiver_last :
    (s.clearReceiver).last = s.last := rfl
@[simp] theorem clearReceiver_acc :
    (s.clearReceiver).acc = 0x00 := rfl
@[simp] theorem clearReceiver_btn :
    (s.clearReceiver).btn = 0x00 := rfl
@[simp] theorem clearReceiver_ir :
    (s.clearReceiver).ir = s.ir := rfl
@[simp] theorem clearReceiver_stb :
    (s.clearReceiver).stb = s.stb := rfl
@[simp] theorem clearReceiver_clk :
    (s.clearReceiver).clk = s.clk := rfl
@[simp] theorem clearReceiver_dioOut :
    (s.clearReceiver).dioOut = s.dioOut := rfl
@[simp] theorem clearReceiver_dir :
    (s.clearReceiver).dir = s.dir := rfl
@[simp] theorem clearReceiver_cfg :
    (s.clearReceiver).cfg = s.cfg := rfl
@[simp] theorem clearReceiver_seq :
    (s.clearReceiver).seq = s.seq := rfl
@[simp] theorem clearReceiver_busy :
    (s.clearReceiver).busy = s.busy := rfl
@[simp] theorem clearReceiver_flt :
    (s.clearReceiver).flt = s.flt := rfl
@[simp] theorem clearReceiver_pay :
    (s.clearReceiver).pay = s.pay := rfl
@[simp] theorem clearReceiver_requests :
    (s.clearReceiver).requests = s.requests := rfl
@[simp] theorem clearReceiver_givenUp :
    (s.clearReceiver).givenUp = s.givenUp := rfl
@[simp] theorem clearReceiver_env :
    (s.clearReceiver).env = s.env := rfl
@[simp] theorem clearReceiver_edge :
    (s.clearReceiver).edge = s.edge := rfl
@[simp] theorem clearReceiver_trace :
    (s.clearReceiver).trace = s.trace := rfl

/-! ### `State.storeCell` -/

@[simp] theorem storeCell_res (i : Nibble) (v : Byte) :
    (s.storeCell i v).res = s.res := rfl
@[simp] theorem storeCell_last (i : Nibble) (v : Byte) :
    (s.storeCell i v).last = s.last := rfl
@[simp] theorem storeCell_acc (i : Nibble) (v : Byte) :
    (s.storeCell i v).acc = s.acc := rfl
@[simp] theorem storeCell_btn (i : Nibble) (v : Byte) :
    (s.storeCell i v).btn = s.btn := rfl
@[simp] theorem storeCell_ir (i : Nibble) (v : Byte) :
    (s.storeCell i v).ir = s.ir := rfl
@[simp] theorem storeCell_stb (i : Nibble) (v : Byte) :
    (s.storeCell i v).stb = s.stb := rfl
@[simp] theorem storeCell_clk (i : Nibble) (v : Byte) :
    (s.storeCell i v).clk = s.clk := rfl
@[simp] theorem storeCell_dioOut (i : Nibble) (v : Byte) :
    (s.storeCell i v).dioOut = s.dioOut := rfl
@[simp] theorem storeCell_dir (i : Nibble) (v : Byte) :
    (s.storeCell i v).dir = s.dir := rfl
@[simp] theorem storeCell_cfg (i : Nibble) (v : Byte) :
    (s.storeCell i v).cfg = s.cfg := rfl
@[simp] theorem storeCell_seq (i : Nibble) (v : Byte) :
    (s.storeCell i v).seq = s.seq := rfl
@[simp] theorem storeCell_busy (i : Nibble) (v : Byte) :
    (s.storeCell i v).busy = s.busy := rfl
@[simp] theorem storeCell_flt (i : Nibble) (v : Byte) :
    (s.storeCell i v).flt = s.flt := rfl
@[simp] theorem storeCell_pay (i : Nibble) (v : Byte) :
    (s.storeCell i v).pay = Memory.write s.pay i.toNat v := rfl
@[simp] theorem storeCell_requests (i : Nibble) (v : Byte) :
    (s.storeCell i v).requests = s.requests := rfl
@[simp] theorem storeCell_givenUp (i : Nibble) (v : Byte) :
    (s.storeCell i v).givenUp = s.givenUp := rfl
@[simp] theorem storeCell_env (i : Nibble) (v : Byte) :
    (s.storeCell i v).env = s.env := rfl
@[simp] theorem storeCell_edge (i : Nibble) (v : Byte) :
    (s.storeCell i v).edge = s.edge := rfl
@[simp] theorem storeCell_trace (i : Nibble) (v : Byte) :
    (s.storeCell i v).trace = s.trace := rfl

/-! ### `State.setRes` -/

@[simp] theorem setRes_res (v : Byte) :
    (s.setRes v).res = v := rfl
@[simp] theorem setRes_last (v : Byte) :
    (s.setRes v).last = s.last := rfl
@[simp] theorem setRes_acc (v : Byte) :
    (s.setRes v).acc = s.acc := rfl
@[simp] theorem setRes_btn (v : Byte) :
    (s.setRes v).btn = s.btn := rfl
@[simp] theorem setRes_ir (v : Byte) :
    (s.setRes v).ir = s.ir := rfl
@[simp] theorem setRes_stb (v : Byte) :
    (s.setRes v).stb = s.stb := rfl
@[simp] theorem setRes_clk (v : Byte) :
    (s.setRes v).clk = s.clk := rfl
@[simp] theorem setRes_dioOut (v : Byte) :
    (s.setRes v).dioOut = s.dioOut := rfl
@[simp] theorem setRes_dir (v : Byte) :
    (s.setRes v).dir = s.dir := rfl
@[simp] theorem setRes_cfg (v : Byte) :
    (s.setRes v).cfg = s.cfg := rfl
@[simp] theorem setRes_seq (v : Byte) :
    (s.setRes v).seq = s.seq := rfl
@[simp] theorem setRes_busy (v : Byte) :
    (s.setRes v).busy = s.busy := rfl
@[simp] theorem setRes_flt (v : Byte) :
    (s.setRes v).flt = s.flt := rfl
@[simp] theorem setRes_pay (v : Byte) :
    (s.setRes v).pay = s.pay := rfl
@[simp] theorem setRes_requests (v : Byte) :
    (s.setRes v).requests = s.requests := rfl
@[simp] theorem setRes_givenUp (v : Byte) :
    (s.setRes v).givenUp = s.givenUp := rfl
@[simp] theorem setRes_env (v : Byte) :
    (s.setRes v).env = s.env := rfl
@[simp] theorem setRes_edge (v : Byte) :
    (s.setRes v).edge = s.edge := rfl
@[simp] theorem setRes_trace (v : Byte) :
    (s.setRes v).trace = s.trace := rfl

/-! ### `State.sample` -/

@[simp] theorem sample_res (c : Byte) :
    (s.sample c).res = releasedMask s.last c := rfl
@[simp] theorem sample_last (c : Byte) :
    (s.sample c).last = c := rfl
@[simp] theorem sample_acc (c : Byte) :
    (s.sample c).acc = s.acc := rfl
@[simp] theorem sample_btn (c : Byte) :
    (s.sample c).btn = s.btn := rfl
@[simp] theorem sample_ir (c : Byte) :
    (s.sample c).ir = s.ir := rfl
@[simp] theorem sample_stb (c : Byte) :
    (s.sample c).stb = s.stb := rfl
@[simp] theorem sample_clk (c : Byte) :
    (s.sample c).clk = s.clk := rfl
@[simp] theorem sample_dioOut (c : Byte) :
    (s.sample c).dioOut = s.dioOut := rfl
@[simp] theorem sample_dir (c : Byte) :
    (s.sample c).dir = s.dir := rfl
@[simp] theorem sample_cfg (c : Byte) :
    (s.sample c).cfg = s.cfg := rfl
@[simp] theorem sample_seq (c : Byte) :
    (s.sample c).seq = s.seq := rfl
@[simp] theorem sample_busy (c : Byte) :
    (s.sample c).busy = s.busy := rfl
@[simp] theorem sample_flt (c : Byte) :
    (s.sample c).flt = s.flt := rfl
@[simp] theorem sample_pay (c : Byte) :
    (s.sample c).pay = s.pay := rfl
@[simp] theorem sample_requests (c : Byte) :
    (s.sample c).requests = s.requests := rfl
@[simp] theorem sample_givenUp (c : Byte) :
    (s.sample c).givenUp = s.givenUp := rfl
@[simp] theorem sample_env (c : Byte) :
    (s.sample c).env = s.env := rfl
@[simp] theorem sample_edge (c : Byte) :
    (s.sample c).edge = s.edge := rfl
@[simp] theorem sample_trace (c : Byte) :
    (s.sample c).trace = s.trace := rfl

/-! ### `State.configureLines` -/

@[simp] theorem configureLines_res :
    (s.configureLines).res = s.res := rfl
@[simp] theorem configureLines_last :
    (s.configureLines).last = s.last := rfl
@[simp] theorem configureLines_acc :
    (s.configureLines).acc = s.acc := rfl
@[simp] theorem configureLines_btn :
    (s.configureLines).btn = s.btn := rfl
@[simp] theorem configureLines_ir :
    (s.configureLines).ir = s.ir := rfl
@[simp] theorem configureLines_stb :
    (s.configureLines).stb = true := rfl
@[simp] theorem configureLines_clk :
    (s.configureLines).clk = true := rfl
@[simp] theorem configureLines_dioOut :
    (s.configureLines).dioOut = false := rfl
@[simp] theorem configureLines_dir :
    (s.configureLines).dir = true := rfl
@[simp] theorem configureLines_cfg :
    (s.configureLines).cfg = true := rfl
@[simp] theorem configureLines_seq :
    (s.configureLines).seq = s.seq := rfl
@[simp] theorem configureLines_busy :
    (s.configureLines).busy = s.busy := rfl
@[simp] theorem configureLines_flt :
    (s.configureLines).flt = s.flt := rfl
@[simp] theorem configureLines_pay :
    (s.configureLines).pay = s.pay := rfl
@[simp] theorem configureLines_requests :
    (s.configureLines).requests = s.requests := rfl
@[simp] theorem configureLines_givenUp :
    (s.configureLines).givenUp = s.givenUp := rfl
@[simp] theorem configureLines_env :
    (s.configureLines).env = s.env := rfl
@[simp] theorem configureLines_edge :
    (s.configureLines).edge = s.edge := rfl
@[simp] theorem configureLines_trace :
    (s.configureLines).trace = s.trace ++ [⟨true, true, true, false, none⟩] := rfl

/-! ### `State.stbFallStep` -/

@[simp] theorem stbFallStep_res :
    (s.stbFallStep).res = s.res := rfl
@[simp] theorem stbFallStep_last :
    (s.stbFallStep).last = s.last := rfl
@[simp] theorem stbFallStep_acc :
    (s.stbFallStep).acc = s.acc := rfl
@[simp] theorem stbFallStep_btn :
    (s.stbFallStep).btn = s.btn := rfl
@[simp] theorem stbFallStep_ir :
    (s.stbFallStep).ir = s.ir := rfl
@[simp] theorem stbFallStep_stb :
    (s.stbFallStep).stb = false := rfl
@[simp] theorem stbFallStep_clk :
    (s.stbFallStep).clk = s.clk := rfl
@[simp] theorem stbFallStep_dioOut :
    (s.stbFallStep).dioOut = s.dioOut := rfl
@[simp] theorem stbFallStep_dir :
    (s.stbFallStep).dir = s.dir := rfl
@[simp] theorem stbFallStep_cfg :
    (s.stbFallStep).cfg = s.cfg := rfl
@[simp] theorem stbFallStep_seq :
    (s.stbFallStep).seq = ⟨.tx, 0, 0⟩ := rfl
@[simp] theorem stbFallStep_busy :
    (s.stbFallStep).busy = s.busy := rfl
@[simp] theorem stbFallStep_flt :
    (s.stbFallStep).flt = s.flt := rfl
@[simp] theorem stbFallStep_pay :
    (s.stbFallStep).pay = s.pay := rfl
@[simp] theorem stbFallStep_requests :
    (s.stbFallStep).requests = s.requests := rfl
@[simp] theorem stbFallStep_givenUp :
    (s.stbFallStep).givenUp = s.givenUp := rfl
@[simp] theorem stbFallStep_env :
    (s.stbFallStep).env = s.env := rfl
@[simp] theorem stbFallStep_edge :
    (s.stbFallStep).edge = s.edge := rfl
@[simp] theorem stbFallStep_trace :
    (s.stbFallStep).trace = s.trace ++ [⟨false, s.clk, s.dir, s.dioOut, none⟩] := rfl

/-! ### `State.dirInStep` -/

@[simp] theorem dirInStep_res :
    (s.dirInStep).res = s.res := rfl
@[simp] theorem dirInStep_last :
    (s.dirInStep).last = s.last := rfl
@[simp] theorem dirInStep_acc :
    (s.dirInStep).acc = s.acc := rfl
@[simp] theorem dirInStep_btn :
    (s.dirInStep).btn = s.btn := rfl
@[simp] theorem dirInStep_ir :
    (s.dirInStep).ir = s.ir := rfl
@[simp] theorem dirInStep_stb :
    (s.dirInStep).stb = s.stb := rfl
@[simp] theorem dirInStep_clk :
    (s.dirInStep).clk = s.clk := rfl
@[simp] theorem dirInStep_dioOut :
    (s.dirInStep).dioOut = s.dioOut := rfl
@[simp] theorem dirInStep_dir :
    (s.dirInStep).dir = false := rfl
@[simp] theorem dirInStep_cfg :
    (s.dirInStep).cfg = s.cfg := rfl
@[simp] theorem dirInStep_seq :
    (s.dirInStep).seq = ⟨.rx, 0, 0⟩ := rfl
@[simp] theorem dirInStep_busy :
    (s.dirInStep).busy = s.busy := rfl
@[simp] theorem dirInStep_flt :
    (s.dirInStep).flt = s.flt := rfl
@[simp] theorem dirInStep_pay :
    (s.dirInStep).pay = s.pay := rfl
@[simp] theorem dirInStep_requests :
    (s.dirInStep).requests = s.requests := rfl
@[simp] theorem dirInStep_givenUp :
    (s.dirInStep).givenUp = s.givenUp := rfl
@[simp] theorem dirInStep_env :
    (s.dirInStep).env = s.env := rfl
@[simp] theorem dirInStep_edge :
    (s.dirInStep).edge = s.edge := rfl
@[simp] theorem dirInStep_trace :
    (s.dirInStep).trace = s.trace ++ [⟨s.stb, s.clk, false, s.dioOut, none⟩] := rfl

/-! ### `State.dirOutStep` -/

@[simp] theorem dirOutStep_res :
    (s.dirOutStep).res = s.res := rfl
@[simp] theorem dirOutStep_last :
    (s.dirOutStep).last = s.last := rfl
@[simp] theorem dirOutStep_acc :
    (s.dirOutStep).acc = s.acc := rfl
@[simp] theorem dirOutStep_btn :
    (s.dirOutStep).btn = s.btn := rfl
@[simp] theorem dirOutStep_ir :
    (s.dirOutStep).ir = s.ir := rfl
@[simp] theorem dirOutStep_stb :
    (s.dirOutStep).stb = s.stb := rfl
@[simp] theorem dirOutStep_clk :
    (s.dirOutStep).clk = s.clk := rfl
@[simp] theorem dirOutStep_dioOut :
    (s.dirOutStep).dioOut = s.dioOut := rfl
@[simp] theorem dirOutStep_dir :
    (s.dirOutStep).dir = true := rfl
@[simp] theorem dirOutStep_cfg :
    (s.dirOutStep).cfg = s.cfg := rfl
@[simp] theorem dirOutStep_seq :
    (s.dirOutStep).seq = ⟨.stbRise, 0, 0⟩ := rfl
@[simp] theorem dirOutStep_busy :
    (s.dirOutStep).busy = s.busy := rfl
@[simp] theorem dirOutStep_flt :
    (s.dirOutStep).flt = s.flt := rfl
@[simp] theorem dirOutStep_pay :
    (s.dirOutStep).pay = s.pay := rfl
@[simp] theorem dirOutStep_requests :
    (s.dirOutStep).requests = s.requests := rfl
@[simp] theorem dirOutStep_givenUp :
    (s.dirOutStep).givenUp = s.givenUp := rfl
@[simp] theorem dirOutStep_env :
    (s.dirOutStep).env = s.env := rfl
@[simp] theorem dirOutStep_edge :
    (s.dirOutStep).edge = s.edge := rfl
@[simp] theorem dirOutStep_trace :
    (s.dirOutStep).trace = s.trace ++ [⟨s.stb, s.clk, true, s.dioOut, none⟩] := rfl

/-! ### `State.stbRiseStep` -/

@[simp] theorem stbRiseStep_res :
    (s.stbRiseStep).res = if s.running = some .rdbtn then s.btn else s.res := rfl
@[simp] theorem stbRiseStep_last :
    (s.stbRiseStep).last = s.last := rfl
@[simp] theorem stbRiseStep_acc :
    (s.stbRiseStep).acc = s.acc := rfl
@[simp] theorem stbRiseStep_btn :
    (s.stbRiseStep).btn = s.btn := rfl
@[simp] theorem stbRiseStep_ir :
    (s.stbRiseStep).ir = s.ir := rfl
@[simp] theorem stbRiseStep_stb :
    (s.stbRiseStep).stb = true := rfl
@[simp] theorem stbRiseStep_clk :
    (s.stbRiseStep).clk = s.clk := rfl
@[simp] theorem stbRiseStep_dioOut :
    (s.stbRiseStep).dioOut = s.dioOut := rfl
@[simp] theorem stbRiseStep_dir :
    (s.stbRiseStep).dir = s.dir := rfl
@[simp] theorem stbRiseStep_cfg :
    (s.stbRiseStep).cfg = s.cfg := rfl
@[simp] theorem stbRiseStep_seq :
    (s.stbRiseStep).seq = ⟨.idle, 0, 0⟩ := rfl
@[simp] theorem stbRiseStep_busy :
    (s.stbRiseStep).busy = false := rfl
@[simp] theorem stbRiseStep_flt :
    (s.stbRiseStep).flt = s.flt := rfl
@[simp] theorem stbRiseStep_pay :
    (s.stbRiseStep).pay = s.pay := rfl
@[simp] theorem stbRiseStep_requests :
    (s.stbRiseStep).requests = s.requests := rfl
@[simp] theorem stbRiseStep_givenUp :
    (s.stbRiseStep).givenUp = s.givenUp := rfl
@[simp] theorem stbRiseStep_env :
    (s.stbRiseStep).env = s.env := rfl
@[simp] theorem stbRiseStep_edge :
    (s.stbRiseStep).edge = s.edge := rfl
@[simp] theorem stbRiseStep_trace :
    (s.stbRiseStep).trace = s.trace ++ [⟨true, s.clk, s.dir, s.dioOut, none⟩] := rfl

/-! ### `State.txHalfStep` -/

@[simp] theorem txHalfStep_res (v : Byte) :
    (s.txHalfStep v).res = s.res := by
  unfold State.txHalfStep; split <;> simp_all [State.record]
@[simp] theorem txHalfStep_last (v : Byte) :
    (s.txHalfStep v).last = s.last := by
  unfold State.txHalfStep; split <;> simp_all [State.record]
@[simp] theorem txHalfStep_acc (v : Byte) :
    (s.txHalfStep v).acc = s.acc := by
  unfold State.txHalfStep; split <;> simp_all [State.record]
@[simp] theorem txHalfStep_btn (v : Byte) :
    (s.txHalfStep v).btn = s.btn := by
  unfold State.txHalfStep; split <;> simp_all [State.record]
@[simp] theorem txHalfStep_ir (v : Byte) :
    (s.txHalfStep v).ir = s.ir := by
  unfold State.txHalfStep; split <;> simp_all [State.record]
@[simp] theorem txHalfStep_stb (v : Byte) :
    (s.txHalfStep v).stb = s.stb := by
  unfold State.txHalfStep; split <;> simp_all [State.record]
@[simp] theorem txHalfStep_clk (v : Byte) :
    (s.txHalfStep v).clk = oddHalf s.seq.hs := by
  unfold State.txHalfStep; split <;> simp_all [State.record]
@[simp] theorem txHalfStep_dioOut (v : Byte) :
    (s.txHalfStep v).dioOut = if oddHalf s.seq.hs then s.dioOut else v.getLsbD (bitIndex s.seq.hs) := by
  unfold State.txHalfStep; split <;> simp_all [State.record]
@[simp] theorem txHalfStep_dir (v : Byte) :
    (s.txHalfStep v).dir = s.dir := by
  unfold State.txHalfStep; split <;> simp_all [State.record]
@[simp] theorem txHalfStep_cfg (v : Byte) :
    (s.txHalfStep v).cfg = s.cfg := by
  unfold State.txHalfStep; split <;> simp_all [State.record]
@[simp] theorem txHalfStep_seq (v : Byte) :
    (s.txHalfStep v).seq = s.seqAfterTx := by
  unfold State.txHalfStep; split <;> simp_all [State.record]
@[simp] theorem txHalfStep_busy (v : Byte) :
    (s.txHalfStep v).busy = s.busy := by
  unfold State.txHalfStep; split <;> simp_all [State.record]
@[simp] theorem txHalfStep_flt (v : Byte) :
    (s.txHalfStep v).flt = s.flt := by
  unfold State.txHalfStep; split <;> simp_all [State.record]
@[simp] theorem txHalfStep_pay (v : Byte) :
    (s.txHalfStep v).pay = s.pay := by
  unfold State.txHalfStep; split <;> simp_all [State.record]
@[simp] theorem txHalfStep_requests (v : Byte) :
    (s.txHalfStep v).requests = s.requests := by
  unfold State.txHalfStep; split <;> simp_all [State.record]
@[simp] theorem txHalfStep_givenUp (v : Byte) :
    (s.txHalfStep v).givenUp = s.givenUp := by
  unfold State.txHalfStep; split <;> simp_all [State.record]
@[simp] theorem txHalfStep_env (v : Byte) :
    (s.txHalfStep v).env = s.env := by
  unfold State.txHalfStep; split <;> simp_all [State.record]
@[simp] theorem txHalfStep_edge (v : Byte) :
    (s.txHalfStep v).edge = s.edge := by
  unfold State.txHalfStep; split <;> simp_all [State.record]
@[simp] theorem txHalfStep_trace (v : Byte) :
    (s.txHalfStep v).trace = s.trace ++ [⟨s.stb, oddHalf s.seq.hs, s.dir, if oddHalf s.seq.hs then s.dioOut else v.getLsbD (bitIndex s.seq.hs), none⟩] := by
  unfold State.txHalfStep; split <;> simp_all [State.record]

/-! ### `State.rxHalfStep` -/

@[simp] theorem rxHalfStep_res (d : Bool) :
    (s.rxHalfStep d).res = s.res := by
  unfold State.rxHalfStep; split <;> simp_all [State.record]
@[simp] theorem rxHalfStep_last (d : Bool) :
    (s.rxHalfStep d).last = s.last := by
  unfold State.rxHalfStep; split <;> simp_all [State.record]
@[simp] theorem rxHalfStep_acc (d : Bool) :
    (s.rxHalfStep d).acc = if oddHalf s.seq.hs then rxShift Config.rxVariant s.acc (bitIndex s.seq.hs) d else s.acc := by
  unfold State.rxHalfStep; split <;> simp_all [State.record]
@[simp] theorem rxHalfStep_btn (d : Bool) :
    (s.rxHalfStep d).btn = if oddHalf s.seq.hs ∧ s.seq.hs = 15 then
        rxUnion Config.rxVariant s.btn (rxShift Config.rxVariant s.acc (bitIndex s.seq.hs) d) s.seq.ix.toNat
      else s.btn := by
  unfold State.rxHalfStep; split <;> simp_all [State.record]
@[simp] theorem rxHalfStep_ir (d : Bool) :
    (s.rxHalfStep d).ir = s.ir := by
  unfold State.rxHalfStep; split <;> simp_all [State.record]
@[simp] theorem rxHalfStep_stb (d : Bool) :
    (s.rxHalfStep d).stb = s.stb := by
  unfold State.rxHalfStep; split <;> simp_all [State.record]
@[simp] theorem rxHalfStep_clk (d : Bool) :
    (s.rxHalfStep d).clk = oddHalf s.seq.hs := by
  unfold State.rxHalfStep; split <;> simp_all [State.record]
@[simp] theorem rxHalfStep_dioOut (d : Bool) :
    (s.rxHalfStep d).dioOut = s.dioOut := by
  unfold State.rxHalfStep; split <;> simp_all [State.record]
@[simp] theorem rxHalfStep_dir (d : Bool) :
    (s.rxHalfStep d).dir = s.dir := by
  unfold State.rxHalfStep; split <;> simp_all [State.record]
@[simp] theorem rxHalfStep_cfg (d : Bool) :
    (s.rxHalfStep d).cfg = s.cfg := by
  unfold State.rxHalfStep; split <;> simp_all [State.record]
@[simp] theorem rxHalfStep_seq (d : Bool) :
    (s.rxHalfStep d).seq = s.seqAfterRx := by
  unfold State.rxHalfStep; split <;> simp_all [State.record]
@[simp] theorem rxHalfStep_busy (d : Bool) :
    (s.rxHalfStep d).busy = s.busy := by
  unfold State.rxHalfStep; split <;> simp_all [State.record]
@[simp] theorem rxHalfStep_flt (d : Bool) :
    (s.rxHalfStep d).flt = s.flt := by
  unfold State.rxHalfStep; split <;> simp_all [State.record]
@[simp] theorem rxHalfStep_pay (d : Bool) :
    (s.rxHalfStep d).pay = s.pay := by
  unfold State.rxHalfStep; split <;> simp_all [State.record]
@[simp] theorem rxHalfStep_requests (d : Bool) :
    (s.rxHalfStep d).requests = s.requests := by
  unfold State.rxHalfStep; split <;> simp_all [State.record]
@[simp] theorem rxHalfStep_givenUp (d : Bool) :
    (s.rxHalfStep d).givenUp = s.givenUp := by
  unfold State.rxHalfStep; split <;> simp_all [State.record]
@[simp] theorem rxHalfStep_env (d : Bool) :
    (s.rxHalfStep d).env = s.env := by
  unfold State.rxHalfStep; split <;> simp_all [State.record]
@[simp] theorem rxHalfStep_edge (d : Bool) :
    (s.rxHalfStep d).edge = s.edge := by
  unfold State.rxHalfStep; split <;> simp_all [State.record]
@[simp] theorem rxHalfStep_trace (d : Bool) :
    (s.rxHalfStep d).trace = s.trace ++ [⟨s.stb, oddHalf s.seq.hs, s.dir, s.dioOut, if oddHalf s.seq.hs then some d else none⟩] := by
  unfold State.rxHalfStep; split <;> simp_all [State.record]

/-! ### `State.withdraw` -/

@[simp] theorem withdraw_res (e : EdgeInput) :
    (s.withdraw e).res = s.res := by
  unfold State.withdraw; split <;> simp_all
@[simp] theorem withdraw_last (e : EdgeInput) :
    (s.withdraw e).last = s.last := by
  unfold State.withdraw; split <;> simp_all
@[simp] theorem withdraw_acc (e : EdgeInput) :
    (s.withdraw e).acc = s.acc := by
  unfold State.withdraw; split <;> simp_all
@[simp] theorem withdraw_btn (e : EdgeInput) :
    (s.withdraw e).btn = s.btn := by
  unfold State.withdraw; split <;> simp_all
@[simp] theorem withdraw_ir (e : EdgeInput) :
    (s.withdraw e).ir = s.ir := by
  unfold State.withdraw; split <;> simp_all
@[simp] theorem withdraw_stb (e : EdgeInput) :
    (s.withdraw e).stb = s.stb := by
  unfold State.withdraw; split <;> simp_all
@[simp] theorem withdraw_clk (e : EdgeInput) :
    (s.withdraw e).clk = s.clk := by
  unfold State.withdraw; split <;> simp_all
@[simp] theorem withdraw_dioOut (e : EdgeInput) :
    (s.withdraw e).dioOut = s.dioOut := by
  unfold State.withdraw; split <;> simp_all
@[simp] theorem withdraw_dir (e : EdgeInput) :
    (s.withdraw e).dir = s.dir := by
  unfold State.withdraw; split <;> simp_all
@[simp] theorem withdraw_cfg (e : EdgeInput) :
    (s.withdraw e).cfg = s.cfg := by
  unfold State.withdraw; split <;> simp_all
@[simp] theorem withdraw_seq (e : EdgeInput) :
    (s.withdraw e).seq = s.seq := by
  unfold State.withdraw; split <;> simp_all
@[simp] theorem withdraw_busy (e : EdgeInput) :
    (s.withdraw e).busy = s.busy := by
  unfold State.withdraw; split <;> simp_all
@[simp] theorem withdraw_flt (e : EdgeInput) :
    (s.withdraw e).flt = s.flt := by
  unfold State.withdraw; split <;> simp_all
@[simp] theorem withdraw_pay (e : EdgeInput) :
    (s.withdraw e).pay = s.pay := by
  unfold State.withdraw; split <;> simp_all
@[simp] theorem withdraw_requests (e : EdgeInput) :
    (s.withdraw e).requests = if e.giveUp then s.requests.tail else s.requests := by
  unfold State.withdraw; split <;> simp_all
@[simp] theorem withdraw_givenUp (e : EdgeInput) :
    (s.withdraw e).givenUp = if e.giveUp then s.givenUp ++ s.requests.take 1 else s.givenUp := by
  unfold State.withdraw; split <;> simp_all
@[simp] theorem withdraw_env (e : EdgeInput) :
    (s.withdraw e).env = s.env := by
  unfold State.withdraw; split <;> simp_all
@[simp] theorem withdraw_edge (e : EdgeInput) :
    (s.withdraw e).edge = s.edge := by
  unfold State.withdraw; split <;> simp_all
@[simp] theorem withdraw_trace (e : EdgeInput) :
    (s.withdraw e).trace = s.trace := by
  unfold State.withdraw; split <;> simp_all

/-! ### `State.passEdge` -/

@[simp] theorem passEdge_res :
    (s.passEdge).res = s.res := by
  unfold State.passEdge; split <;> simp_all
@[simp] theorem passEdge_last :
    (s.passEdge).last = s.last := by
  unfold State.passEdge; split <;> simp_all
@[simp] theorem passEdge_acc :
    (s.passEdge).acc = s.acc := by
  unfold State.passEdge; split <;> simp_all
@[simp] theorem passEdge_btn :
    (s.passEdge).btn = s.btn := by
  unfold State.passEdge; split <;> simp_all
@[simp] theorem passEdge_ir :
    (s.passEdge).ir = s.ir := by
  unfold State.passEdge; split <;> simp_all
@[simp] theorem passEdge_stb :
    (s.passEdge).stb = s.stb := by
  unfold State.passEdge; split <;> simp_all
@[simp] theorem passEdge_clk :
    (s.passEdge).clk = s.clk := by
  unfold State.passEdge; split <;> simp_all
@[simp] theorem passEdge_dioOut :
    (s.passEdge).dioOut = s.dioOut := by
  unfold State.passEdge; split <;> simp_all
@[simp] theorem passEdge_dir :
    (s.passEdge).dir = s.dir := by
  unfold State.passEdge; split <;> simp_all
@[simp] theorem passEdge_cfg :
    (s.passEdge).cfg = s.cfg := by
  unfold State.passEdge; split <;> simp_all
@[simp] theorem passEdge_seq :
    (s.passEdge).seq = s.seq := by
  unfold State.passEdge; split <;> simp_all
@[simp] theorem passEdge_busy :
    (s.passEdge).busy = s.busy := by
  unfold State.passEdge; split <;> simp_all
@[simp] theorem passEdge_flt :
    (s.passEdge).flt = s.flt := by
  unfold State.passEdge; split <;> simp_all
@[simp] theorem passEdge_pay :
    (s.passEdge).pay = s.pay := by
  unfold State.passEdge; split <;> simp_all
@[simp] theorem passEdge_requests :
    (s.passEdge).requests = s.requests := by
  unfold State.passEdge; split <;> simp_all
@[simp] theorem passEdge_givenUp :
    (s.passEdge).givenUp = s.givenUp := by
  unfold State.passEdge; split <;> simp_all
@[simp] theorem passEdge_env :
    (s.passEdge).env = s.env.tail := by
  unfold State.passEdge; split <;> simp_all
@[simp] theorem passEdge_edge :
    (s.passEdge).edge = if s.env = [] then s.edge + 1 else s.edge := by
  unfold State.passEdge; split <;> simp_all
@[simp] theorem passEdge_trace :
    (s.passEdge).trace = s.trace := by
  unfold State.passEdge; split <;> simp_all

/-! ### `State.resetBlock` -/

@[simp] theorem resetBlock_res : s.resetBlock.res = State.reset.res := rfl
@[simp] theorem resetBlock_last : s.resetBlock.last = State.reset.last := rfl
@[simp] theorem resetBlock_acc : s.resetBlock.acc = State.reset.acc := rfl
@[simp] theorem resetBlock_btn : s.resetBlock.btn = State.reset.btn := rfl
@[simp] theorem resetBlock_ir : s.resetBlock.ir = State.reset.ir := rfl
@[simp] theorem resetBlock_stb : s.resetBlock.stb = State.reset.stb := rfl
@[simp] theorem resetBlock_clk : s.resetBlock.clk = State.reset.clk := rfl
@[simp] theorem resetBlock_dioOut : s.resetBlock.dioOut = State.reset.dioOut := rfl
@[simp] theorem resetBlock_dir : s.resetBlock.dir = State.reset.dir := rfl
@[simp] theorem resetBlock_cfg : s.resetBlock.cfg = State.reset.cfg := rfl
@[simp] theorem resetBlock_seq : s.resetBlock.seq = State.reset.seq := rfl
@[simp] theorem resetBlock_busy : s.resetBlock.busy = State.reset.busy := rfl
@[simp] theorem resetBlock_flt : s.resetBlock.flt = State.reset.flt := rfl
@[simp] theorem resetBlock_pay : s.resetBlock.pay = State.reset.pay := rfl
@[simp] theorem resetBlock_requests : s.resetBlock.requests = s.requests := rfl
@[simp] theorem resetBlock_givenUp : s.resetBlock.givenUp = s.givenUp := rfl
@[simp] theorem resetBlock_env : s.resetBlock.env = s.env := rfl
@[simp] theorem resetBlock_edge : s.resetBlock.edge = s.edge := rfl
@[simp] theorem resetBlock_trace : s.resetBlock.trace = s.trace := rfl

/-! ### Computed values -/

@[simp] theorem ready_iff : s.ready = true ↔ s.busy = false ∧ s.flt = .none := by
  simp [State.ready]

theorem running_congr {t : State} (h : t.ir = s.ir) : t.running = s.running := by
  simp [State.running, h]

theorem runningTx_congr {t : State} (h : t.ir = s.ir) : t.runningTx = s.runningTx := by
  simp [State.runningTx, running_congr s h]

end Sys2Proof.Machine
end

