-- ==== Sys2Proof/Laws/Ops.lean ====
section
/-! SUPPORT. What each shared operation can do, said once: acceptance, the transmission of a wire byte, an
engine step, a clock edge. Later proofs cite these instead of unfolding the operations. -/

namespace Sys2Proof.Machine

@[simp] theorem andThen_next (s : State) (f : State → Result) :
    Result.andThen (.next s) f = f s := rfl

theorem andThen_eq_next {r : Result} {f : State → Result} {t : State} :
    r.andThen f = .next t ↔ ∃ u, r = .next u ∧ f u = .next t := by
  cases r <;> simp [Result.andThen]

theorem engineRun_append (ds es : List Bool) (s : State) :
    engineRun (ds ++ es) s = (engineRun ds s).andThen (engineRun es) := by
  induction ds generalizing s with
  | nil => rfl
  | cons d ds ih =>
    simp only [List.cons_append, engineRun]
    cases engineStep d s <;> simp [Result.andThen, ih]

/-! ### Acceptance -/

theorem accept_ready {s : State} (h : s.ready = true) {w : Word} {b : Bool} {f : State → State}
    (hc : b = true → s.cfg = true) : s.accept w b f = .next (f (s.latch w)) := by
  unfold State.accept
  rw [if_pos h]
  cases b <;> simp_all

theorem accept_unconfigured {s : State} (h : s.ready = true) {w : Word} {f : State → State}
    (hc : s.cfg = false) : s.accept w true f = .next (s.raise .notConfigured w) := by
  simp [State.accept, h, hc]

theorem accept_held {s : State} (h : s.ready = false) {w : Word} {b : Bool} {f : State → State} :
    s.accept w b f = .next s := by
  simp [State.accept, h]

theorem acceptIllegal_ready {s : State} (h : s.ready = true) {w : Word} :
    s.acceptIllegal w = .next (s.raise .illegalRequest w) := by
  simp [State.acceptIllegal, h]

theorem acceptIllegal_held {s : State} (h : s.ready = false) {w : Word} :
    s.acceptIllegal w = .next s := by
  simp [State.acceptIllegal, h]

/-- Everything acceptance can do: nothing, `NOT_CONFIGURED`, or the request. -/
theorem accept_cases {s t : State} {w : Word} {b : Bool} {f : State → State}
    (h : s.accept w b f = .next t) :
    (s.ready = false ∧ t = s) ∨
    (s.ready = true ∧ b = true ∧ s.cfg = false ∧ t = s.raise .notConfigured w) ∨
    (s.ready = true ∧ (b = true → s.cfg = true) ∧ t = f (s.latch w)) := by
  cases hr : s.ready
  · rw [accept_held hr] at h; simp_all
  · cases hc : (b && !s.cfg)
    · rw [accept_ready hr (by cases b <;> simp_all)] at h; cases b <;> simp_all
    · simp only [Bool.and_eq_true, Bool.not_eq_true'] at hc
      obtain ⟨rfl, hc⟩ := hc
      rw [accept_unconfigured hr hc] at h; simp_all

/-- Everything the execution of a request can do: nothing, a fault, the start of the engine, or the effect
of a request that completes when it is accepted. -/
theorem exec_request_cases {i : Instr} {w : Word} {s t : State} (he : encode i = .request w)
    (h : exec i s = .next t) :
    (s.ready = false ∧ t = s) ∨
    (s.ready = true ∧ i.wellFormed = false ∧ t = s.raise .illegalRequest w) ∨
    (s.ready = true ∧ isTransport i = true ∧ s.cfg = false ∧ t = s.raise .notConfigured w) ∨
    (s.ready = true ∧ isTransport i = true ∧ s.cfg = true ∧
      (t = (s.latch w).startEngine ∨ (i = .rdbtn ∧ t = (s.latch w).clearReceiver.startEngine))) ∨
    (s.ready = true ∧ i = .init ∧ t = (s.latch w).configureLines) ∨
    (s.ready = true ∧ ∃ x v, i = .ldp x v ∧ t = (s.latch w).storeCell x v) ∨
    (s.ready = true ∧ ∃ v, i = .enc v ∧ t = (s.latch w).setRes (segEncode v)) ∨
    (s.ready = true ∧ ∃ c, i = .smp c ∧ t = (s.latch w).sample c) := by
  cases i <;> simp only [encode, reduceCtorEq, Code.request.injEq] at he <;> subst he <;>
    simp only [exec, execInit, execLdp, execEnc, execSmp, execScmd, execSbulk, execSwr1,
      execRdbtn] at h
  case sbulk a n =>
    split at h
    · rcases accept_cases h with h | h | h <;> simp_all [isTransport]
    · rename_i hn
      cases hr : s.ready
      · rw [acceptIllegal_held hr] at h; simp_all
      · rw [acceptIllegal_ready hr] at h; simp_all [Instr.wellFormed]
  all_goals rcases accept_cases h with h | h | h <;> simp_all [isTransport]

/-! ### Wire bytes -/

/-- A wire byte is executed by transmitting the byte it encodes to. -/
theorem exec_wire {i : Instr} {v : Byte} (h : wireByte i = some v) (s : State) :
    exec i s = s.transmit v := by
  cases i <;> simp only [wireByte, encode, Option.some.injEq, reduceCtorEq] at h <;> subst h <;> rfl

theorem transmit_next {s : State} (hb : s.busy = true) (hp : s.seq.ph = .tx) (v : Byte) :
    s.transmit v = .next (s.txHalfStep v) := by
  simp [State.transmit, hb, hp]

theorem transmit_refused {s : State} (h : s.busy = false ∨ s.seq.ph ≠ .tx) (v : Byte) :
    s.transmit v = .refused .wireByteOutsideTransmission := by
  unfold State.transmit
  rw [if_neg (by rcases h with h | h <;> simp [h])]

/-- The byte an item puts on the wire. -/
def itemByte : TxItem → Byte
  | .command i => (wireByte i).getD 0
  | .data v => v

theorem wireByte_of_decodeWire {b : Byte} {i : Instr} (h : decodeWire b = .ok i) :
    wireByte i = some b := by
  have all : ∀ b : Byte, (accepted (decodeWire b)).all (fun i => wireByte i == some b) = true := by
    decide
  simpa [h, accepted] using all b

theorem itemByte_commandItem (c : Byte) : itemByte (commandItem c) = c := by
  unfold commandItem
  split
  · rename_i i h; simp [itemByte, wireByte_of_decodeWire h]
  · rfl

/-- Every item of a transaction that is a command is a wire byte. -/
theorem txItem_command {pay : List Host.Cell} {r : Instr} {ix : Nat} {i : Instr}
    (h : txItem pay r ix = some (.command i)) : ∃ v, wireByte i = some v := by
  cases r <;> rcases ix with _ | _ | _ | ix <;>
    simp only [txItem, reduceCtorEq, Option.some.injEq, TxItem.command.injEq] at h
  · rename_i c
    unfold commandItem at h
    split at h
    · rename_i j hj
      simp only [TxItem.command.injEq] at h
      exact ⟨c, h ▸ wireByte_of_decodeWire hj⟩
    · cases h
  all_goals first
    | (subst h; exact ⟨_, rfl⟩)
    | (split at h <;> simp at h)

/-! ### Engine steps -/

/-- A transmitting engine performs the half-step of the byte at its position, command or data. -/
theorem engineStep_tx {s : State} {it : TxItem} (d : Bool) (hb : s.busy = true) (hp : s.seq.ph = .tx)
    (h : s.currentItem = some it) : engineStep d s = .next (s.txHalfStep (itemByte it)) := by
  unfold engineStep
  rw [hp]
  simp only [h]
  cases it with
  | data v => exact transmit_next hb hp v
  | command i =>
    obtain ⟨r, -, hr⟩ : ∃ r, s.running = some r ∧ txItem s.pay r s.seq.ix.toNat = some (.command i) := by
      unfold State.currentItem at h
      split at h
      · exact ⟨_, ‹_›, h⟩
      · cases h
    obtain ⟨v, hv⟩ := txItem_command hr
    simp only [exec_wire hv, itemByte, hv, Option.getD_some]
    exact transmit_next hb hp v

/-- A position below `NTX` holds a byte, and no other does. -/
theorem txItem_isSome {pay : List Host.Cell} {r : Instr} {ix : Nat} :
    (txItem pay r ix).isSome = true ↔ ix < nTx r := by
  cases r <;> rcases ix with _ | _ | _ | ix <;> simp [txItem, nTx] <;> omega

theorem currentItem_isSome {s : State} : s.currentItem.isSome = true ↔ s.seq.ix.toNat < s.runningTx := by
  unfold State.currentItem State.runningTx
  cases s.running with
  | none => simp
  | some r => simpa using txItem_isSome

/-- Everything an engine step of a busy block can do. -/
theorem engineStep_cases {s t : State} {d : Bool} (hb : s.busy = true) (h : engineStep d s = .next t) :
    (s.seq.ph = .stbFall ∧ t = s.stbFallStep) ∨
    (s.seq.ph = .tx ∧ ∃ v, (∃ it, s.currentItem = some it ∧ v = itemByte it) ∧ t = s.txHalfStep v) ∨
    (s.seq.ph = .dirIn ∧ t = s.dirInStep) ∨
    (s.seq.ph = .rx ∧ s.seq.ix.toNat < 4 ∧ t = s.rxHalfStep d) ∨
    (s.seq.ph = .dirOut ∧ t = s.dirOutStep) ∨
    (s.seq.ph = .stbRise ∧ t = s.stbRiseStep) := by
  rcases hp : s.seq.ph with _ | _ | _ | _ | _ | _ | _
  · simp [engineStep, hp] at h
  · simp [engineStep, hp] at h; simp [h]
  · cases hi : s.currentItem with
    | none => simp [engineStep, hp, hi] at h
    | some it =>
      rw [engineStep_tx d hb hp hi] at h
      simp only [Host.Outcome.next.injEq] at h
      exact Or.inr (Or.inl ⟨rfl, _, ⟨it, rfl, rfl⟩, h.symm⟩)
  · simp [engineStep, hp] at h; simp [h]
  · simp only [engineStep, hp] at h
    split at h
    · rename_i hx
      simp only [Host.Outcome.next.injEq] at h
      exact Or.inr (Or.inr (Or.inr (Or.inl ⟨rfl, hx, h.symm⟩)))
    · cases h
  · simp [engineStep, hp] at h; simp [h]
  · simp [engineStep, hp] at h; simp [h]

/-! ### Clock edges -/

theorem passEdge_withdraw_eq (s : State) (e : EdgeInput) :
    s.passEdge.withdraw e =
      { s with
        requests := if e.giveUp then s.requests.tail else s.requests
        givenUp := if e.giveUp then s.givenUp ++ s.requests.take 1 else s.givenUp
        env := s.env.tail
        edge := if s.env = [] then s.edge + 1 else s.edge } := by
  unfold State.withdraw State.passEdge
  rcases s.env with _ | ⟨_, _⟩ <;> cases e.giveUp <;> rfl

/-- Everything a step can do: a reset, an engine step, standing still, or the acceptance of a word. -/
theorem step_cases {s t : State} (h : step s = .next t) :
    (s.edgeInput.rst = true ∧ t = (s.passEdge.withdraw s.edgeInput).resetBlock) ∨
    (s.edgeInput.rst = false ∧ s.busy = true ∧ s.edgeInput.tick = true ∧
      engineStep s.edgeInput.dio (s.passEdge.withdraw s.edgeInput) = .next t) ∨
    (s.edgeInput.rst = false ∧ s.busy = true ∧ s.edgeInput.tick = false ∧
      t = s.passEdge.withdraw s.edgeInput) ∨
    (s.edgeInput.rst = false ∧ s.ready = false ∧ s.busy = false ∧
      t = s.passEdge.withdraw s.edgeInput) ∨
    (s.edgeInput.rst = false ∧ s.ready = true ∧ s.edgeInput.present = true ∧ s.requests = [] ∧
      t = s.passEdge) ∨
    (s.edgeInput.rst = false ∧ s.ready = true ∧ s.edgeInput.present = false ∧
      t = s.passEdge.withdraw s.edgeInput) ∨
    (s.edgeInput.rst = false ∧ s.ready = true ∧ s.edgeInput.present = true ∧
      ∃ w ws, s.requests = w :: ws ∧ acceptWord w { s.passEdge with requests := ws } = .next t) := by
  simp only [step, clockEdge, edgeWith, passEdge_busy, passEdge_flt, passEdge_requests] at h
  cases hr : s.edgeInput.rst <;> simp only [hr, if_true, if_false, Bool.false_eq_true] at h
  · cases hb : s.busy <;> simp only [hb, if_true, if_false, Bool.false_eq_true] at h
    · by_cases hf : s.flt = .none
      · have hready : s.ready = true := by simp [hb, hf]
        simp only [hf, ne_eq, not_true_eq_false, if_false] at h
        cases hp : s.edgeInput.present <;> simp only [hp, if_true, if_false, Bool.false_eq_true] at h
        · simp_all
        · cases hq : s.requests with
          | nil => simp_all
          | cons w ws => simp only [hq] at h; simp_all
      · have hready : s.ready = false := by simp [State.ready, hb, hf]
        simp_all
    · cases ht : s.edgeInput.tick <;> simp only [ht, if_true, if_false, Bool.false_eq_true] at h <;>
        simp_all
  · simp_all

/-- Everything acceptance of a word can do. -/
theorem acceptWord_cases {s t : State} {w : Word} (h : acceptWord w s = .next t) :
    (∃ i, decodeRequest w = .ok i ∧ exec i s = .next t) ∨
    (∃ e, decodeRequest w = .error e ∧ s.acceptIllegal w = .next t) := by
  unfold acceptWord at h
  split at h
  · exact Or.inl ⟨_, ‹_›, h⟩
  · exact Or.inr ⟨_, ‹_›, h⟩

end Sys2Proof.Machine
end

