-- ==== Sys2Proof/Laws/Engine.lean ====
section
/-! SUPPORT. The transmission of one byte by 16 engine steps (40_transport.md R86), the lemma every
statement about a whole transaction goes through. -/

namespace Sys2Proof.Machine

theorem engineRun_split (k : Nat) (ds : List Bool) (s : State) :
    engineRun ds s = (engineRun (ds.take k) s).andThen (engineRun (ds.drop k)) := by
  conv => lhs; rw [← List.take_append_drop k ds, engineRun_append]

/-- The half-step numbers as the state holds them. -/
theorem half_facts : ∀ h, h < 16 →
    oddHalf (BitVec.ofNat 4 h) = (h % 2 == 1) ∧ bitIndex (BitVec.ofNat 4 h) = h / 2 ∧
      (h ≠ 15 → BitVec.ofNat 4 h ≠ 15) := by decide

theorem oddHalf_succ : ∀ h : BitVec 4, h ≠ 15 → oddHalf (h + 1) = !oddHalf h := by decide

theorem txEntries_length (v : Byte) : (txEntries v).length = 16 := by simp [txEntries]

theorem take_txEntries (v : Byte) (h : Nat) (hh : h < 16) :
    (txEntries v).take (h + 1) =
      (txEntries v).take h ++ [⟨false, h % 2 == 1, true, v.getLsbD (h / 2), none⟩] := by
  unfold txEntries
  rw [← List.map_take, ← List.map_take, List.take_range, List.take_range,
    Nat.min_eq_left (by omega), Nat.min_eq_left (by omega), List.range_succ]
  simp

/-- The state after the first `h` half-steps of the byte `v`. -/
def txMid (s : State) (v : Byte) (h : Nat) : State :=
  { s with
    clk := if h = 0 then s.clk else (h % 2 == 0)
    dioOut := if h = 0 then s.dioOut else v.getLsbD ((h - 1) / 2)
    seq := ⟨.tx, s.seq.ix, BitVec.ofNat 4 h⟩
    trace := s.trace ++ (txEntries v).take h }

theorem txMid_zero {s : State} (v : Byte) (hs : s.seq = ⟨.tx, s.seq.ix, 0⟩) : txMid s v 0 = s := by
  show ({ s with
    clk := s.clk, dioOut := s.dioOut, seq := ⟨.tx, s.seq.ix, 0⟩, trace := s.trace ++ [] } : State) = s
  rw [List.append_nil, ← hs]

theorem txMid_half {s : State} {v : Byte} (hstb : s.stb = false) (hdir : s.dir = true) (h : Nat)
    (hh : h < 16) :
    (txMid s v h).txHalfStep v = { txMid s v (h + 1) with seq := (txMid s v h).seqAfterTx } := by
  obtain ⟨ho, hk, -⟩ := half_facts h hh
  unfold State.txHalfStep
  rcases Nat.mod_two_eq_zero_or_one h with h2 | h2
  · rw [if_neg (by simp [txMid, ho, h2])]
    simp only [State.record, txMid, hk, take_txEntries v h hh, h2, State.seqAfterTx,
      show (h + 1) % 2 = 1 by omega, Nat.add_sub_cancel, if_neg (Nat.succ_ne_zero h),
      List.append_assoc]
    simp [hstb, hdir]
  · rw [if_pos (by simp [txMid, ho, h2])]
    have h0 : h ≠ 0 := by omega
    simp only [State.record, txMid, take_txEntries v h hh, h2, hstb, hdir, h0, if_false,
      show (h + 1) % 2 = 0 by omega, Nat.add_sub_cancel, if_neg (Nat.succ_ne_zero h),
      List.append_assoc, show (h - 1) / 2 = h / 2 by omega]
    simp

/-- One half-step before the last takes the state one further. -/
theorem txMid_step {s : State} {v : Byte} (hstb : s.stb = false) (hdir : s.dir = true) (h : Nat)
    (hh : h < 15) : (txMid s v h).txHalfStep v = txMid s v (h + 1) := by
  rw [txMid_half hstb hdir h (by omega)]
  obtain ⟨-, -, hn⟩ := half_facts h (by omega)
  have : (txMid s v h).seqAfterTx = (txMid s v (h + 1)).seq := by
    simp only [State.seqAfterTx, txMid, hn (by omega), ne_eq, not_false_eq_true, if_true]
    simp [BitVec.ofNat_add]
  rw [this]

/-- Where the sequencer goes when a byte is out (R20). -/
def afterByte (s : State) : Seq :=
  if s.seq.ix.toNat + 1 < s.runningTx then ⟨.tx, s.seq.ix + 1, 0⟩
  else if s.running = some .rdbtn then ⟨.dirIn, 0, 0⟩
  else ⟨.stbRise, 0, 0⟩

/-- The state when the byte `v` is out. -/
def txDone (s : State) (v : Byte) : State :=
  { s with
    clk := true, dioOut := v.getLsbD 7, seq := afterByte s, trace := s.trace ++ txEntries v }

/-- The last half-step of a byte. -/
theorem txMid_last {s : State} {v : Byte} (hstb : s.stb = false) (hdir : s.dir = true) :
    (txMid s v 15).txHalfStep v = txDone s v := by
  rw [txMid_half hstb hdir 15 (by omega)]
  have : (txMid s v 15).seqAfterTx = afterByte s := by
    simp [State.seqAfterTx, txMid, afterByte]; rfl
  rw [this]
  simp [txMid, txDone]
  simp [txEntries]

theorem engineRun_txMid {s : State} {it : TxItem} (hb : s.busy = true) (hi : s.currentItem = some it)
    (hstb : s.stb = false) (hdir : s.dir = true) :
    ∀ n h (ds : List Bool), ds.length = n → n + h = 16 → 0 < n →
      engineRun ds (txMid s (itemByte it) h) = .next (txDone s (itemByte it)) := by
  intro n
  induction n with
  | zero => intro h ds _ _ h0; omega
  | succ n ih =>
    intro h ds hl hn _
    obtain ⟨d, ds, rfl⟩ := List.exists_cons_of_length_eq_add_one hl
    have st : engineStep d (txMid s (itemByte it) h) =
        .next ((txMid s (itemByte it) h).txHalfStep (itemByte it)) :=
      engineStep_tx (it := it) d hb rfl hi
    simp only [engineRun]
    rw [st, andThen_next]
    rcases Nat.eq_zero_or_pos n with rfl | hp
    · obtain rfl : h = 15 := by omega
      rw [txMid_last hstb hdir]
      simp at hl
      subst hl
      rfl
    · rw [txMid_step hstb hdir h (by omega)]
      exact ih (h + 1) ds (by simpa using hl) (by omega) hp

/-- TxByte: 16 engine steps send the byte at the sequencer's position, whatever the data pin does. -/
theorem engineRun_txByte {s : State} {it : TxItem} (hb : s.busy = true)
    (hseq : s.seq = ⟨.tx, s.seq.ix, 0⟩) (hi : s.currentItem = some it)
    (hstb : s.stb = false) (hdir : s.dir = true) (ds : List Bool) (hl : ds.length = 16) :
    engineRun ds s = .next (txDone s (itemByte it)) := by
  have := engineRun_txMid hb hi hstb hdir 16 0 ds hl (by omega) (by omega)
  rwa [txMid_zero _ hseq] at this

end Sys2Proof.Machine
end

