-- ==== Sys2Proof/Laws/Issue.lean ====
section
/-! SUPPORT. What waiting for the block and issuing a request can do (43_host_sequences.md R130), said once for
the host sequences. -/

namespace Sys2Proof.Machine

@[simp] theorem done_andThen {α β : Type} (a : α) (s : State) (ds : List Bool)
    (f : α → State → List Bool → HostRun β) : (HostRun.done a s ds).andThen f = f a s ds := rfl

@[simp] theorem ofResult_next {α : Type} (s : State) (f : State → HostRun α) :
    HostRun.ofResult (.next s) f = f s := rfl

/-- An idle block is not waited for. -/
theorem waitIdle_idle {s : State} (h : s.busy = false) (ds : List Bool) :
    waitIdle ds s = .done () s ds := by
  cases ds <;> simp [waitIdle, h]

/-- A busy block without a tick is still waited for. -/
theorem waitIdle_nil {s : State} (h : s.busy = true) : waitIdle [] s = .waiting s := by
  simp [waitIdle, h]

/-- A busy block takes an engine step for the first level. -/
theorem waitIdle_cons {s : State} (h : s.busy = true) (d : Bool) (ds : List Bool) :
    waitIdle (d :: ds) s = HostRun.ofResult (engineStep d s) (waitIdle ds) := by
  simp [waitIdle, h]

/-- The block is busy before each of the engine steps `ds`. -/
def busyUntil : List Bool → State → Prop
  | [], _ => True
  | d :: ds, s => s.busy = true ∧ ∀ t, engineStep d s = .next t → busyUntil ds t

/-- Waiting takes exactly the engine steps a busy block still needs. -/
theorem waitIdle_engineRun {ds : List Bool} {s t : State} (hb : busyUntil ds s)
    (hr : engineRun ds s = .next t) (ht : t.busy = false) (es : List Bool) :
    waitIdle (ds ++ es) s = .done () t es := by
  induction ds generalizing s with
  | nil =>
    cases hr
    exact waitIdle_idle ht es
  | cons d ds ih =>
    obtain ⟨u, hu, hr⟩ := andThen_eq_next.mp hr
    rw [List.cons_append, waitIdle_cons hb.1, hu, ofResult_next]
    exact ih (hb.2 u hu) hr

/-- Waiting with too few levels has taken them all. -/
theorem waitIdle_short {ds : List Bool} {s t : State} (hb : busyUntil ds s)
    (hr : engineRun ds s = .next t) (ht : t.busy = true) : waitIdle ds s = .waiting t := by
  induction ds generalizing s with
  | nil =>
    cases hr
    exact waitIdle_nil ht
  | cons d ds ih =>
    obtain ⟨u, hu, hr⟩ := andThen_eq_next.mp hr
    rw [waitIdle_cons hb.1, hu, ofResult_next]
    exact ih (hb.2 u hu) hr

/-- A ready block accepts what is issued at once. -/
theorem issue_ready {s : State} (h : s.ready = true) (i : Instr) (ds : List Bool) :
    issue i ds s = HostRun.ofResult (exec i s) (waitIdle ds) := by
  obtain ⟨hb, hf⟩ := (ready_iff s).mp h
  simp [issue, waitIdle_idle hb, presentIdle, hf]

/-- A request that completes when it is accepted takes no level. -/
theorem issue_completes {s t : State} (h : s.ready = true) {i : Instr} (he : exec i s = .next t)
    (ht : t.busy = false) (ds : List Bool) : issue i ds s = .done () t ds := by
  rw [issue_ready h, he, ofResult_next, waitIdle_idle ht]

/-- A faulted block accepts nothing: the request stays presented. -/
theorem issue_faulted {s : State} (hb : s.busy = false) (hf : s.flt ≠ .none) (i : Instr)
    (ds : List Bool) : issue i ds s = .presenting i s := by
  simp [issue, waitIdle_idle hb, presentIdle, hf]

/-- A busy block is waited for first. -/
theorem issue_busy {ds : List Bool} {s t : State} (hb : busyUntil ds s)
    (hr : engineRun ds s = .next t) (ht : t.ready = true) (i : Instr) (es : List Bool) :
    issue i (ds ++ es) s = issue i es t := by
  obtain ⟨hidle, hf⟩ := (ready_iff t).mp ht
  rw [issue_ready ht]
  simp [issue, waitIdle_engineRun hb hr hidle, presentIdle, hf]

/-- With too few levels for the running transaction the request is still presented. -/
theorem issue_short {ds : List Bool} {s t : State} (hb : busyUntil ds s)
    (hr : engineRun ds s = .next t) (ht : t.busy = true) (i : Instr) :
    issue i ds s = .presenting i t := by
  simp [issue, waitIdle_short hb hr ht]

theorem issueAll_append (is js : List Instr) (ds : List Bool) (s : State) :
    issueAll (is ++ js) ds s = (issueAll is ds s).andThen fun _ t rest => issueAll js rest t := by
  induction is generalizing ds s with
  | nil => rfl
  | cons i is ih =>
    simp only [List.cons_append, issueAll]
    cases issue i ds s <;> simp [HostRun.andThen, ih]

end Sys2Proof.Machine
end

