-- ==== Sys2Proof/Laws/Memory.lean ====
section
/-! SUPPORT. The laws of the payload store: reading what was written, leaving other cells alone, and keeping
the canonical form. -/

namespace Sys2Proof.Machine

theorem Memory.read_write_same (m : List Host.Cell) (i : Nat) (v : Byte)
    (h : m.Pairwise (fun a b => a.1 < b.1)) : Memory.read (Memory.write m i v) i = v := by
  induction m with
  | nil => by_cases hv : v = Config.unlistedByte <;> simp [Memory.write, Memory.read, hv]
  | cons c m ih =>
    obtain ⟨a, w⟩ := c
    have tailAbove : ∀ c ∈ m, a < c.1 := (List.pairwise_cons.mp h).1
    have unlisted : ∀ (l : List Host.Cell), (∀ c ∈ l, i < c.1) →
        Memory.read l i = Config.unlistedByte := by
      intro l hl
      induction l with
      | nil => rfl
      | cons d l ihl =>
        have := hl d (by simp)
        simp only [Memory.read]
        rw [if_neg (by omega), ihl (fun c hc => hl c (by simp [hc]))]
    rcases Nat.lt_trichotomy i a with hia | hia | hia
    · by_cases hv : v = Config.unlistedByte
      · simp only [Memory.write, hia, hv, if_true]
        refine unlisted _ fun c hc => ?_
        rcases List.mem_cons.mp hc with rfl | hc
        · exact hia
        · exact Nat.lt_trans hia (tailAbove c hc)
      · simp [Memory.write, Memory.read, hia, hv]
    · subst hia
      by_cases hv : v = Config.unlistedByte
      · simp only [Memory.write, Nat.lt_irrefl, if_false, if_true, hv]
        exact unlisted m tailAbove
      · simp [Memory.write, Memory.read, hv]
    · have h1 : ¬ i < a := by omega
      have h2 : ¬ i = a := by omega
      simp only [Memory.write, h1, h2, if_false, Memory.read]
      rw [if_neg (by omega)]
      exact ih (List.pairwise_cons.mp h).2

theorem Memory.read_write_other (m : List Host.Cell) (i j : Nat) (v : Byte) (hij : j ≠ i)
    : Memory.read (Memory.write m i v) j = Memory.read m j := by
  induction m with
  | nil =>
    by_cases hv : v = Config.unlistedByte <;> simp [Memory.write, Memory.read, hv, Ne.symm hij]
  | cons c m ih =>
    obtain ⟨a, w⟩ := c
    by_cases hia : i < a
    · by_cases hv : v = Config.unlistedByte <;>
        simp [Memory.write, Memory.read, hia, hv, Ne.symm hij]
    · by_cases hia2 : i = a
      · subst hia2
        by_cases hv : v = Config.unlistedByte <;>
          simp [Memory.write, Memory.read, hv, Ne.symm hij]
      · simp [Memory.write, Memory.read, hia, hia2, ih]

/-- The cells after a write: those before it and the one written. -/
theorem Memory.mem_write {m : List Host.Cell} {i : Nat} {v : Byte} {c : Host.Cell}
    (h : c ∈ Memory.write m i v) : c ∈ m ∨ (c = (i, v) ∧ v ≠ Config.unlistedByte) := by
  induction m with
  | nil => by_cases hv : v = Config.unlistedByte <;> simp_all [Memory.write]
  | cons d m ih =>
    obtain ⟨a, w⟩ := d
    simp only [Memory.write] at h
    split at h
    · split at h <;> grind
    · split at h
      · split at h <;> grind
      · rcases List.mem_cons.mp h with rfl | h
        · simp
        · rcases ih h with h | h
          · exact Or.inl (by simp [h])
          · exact Or.inr h

/-- A write keeps the canonical form. -/
theorem Memory.wf_write {m : List Host.Cell} {i : Nat} (v : Byte) (hi : i < Config.nCells)
    (h : Memory.wf m) : Memory.wf (Memory.write m i v) := by
  refine ⟨?_, fun c hc => ?_⟩
  · have sorted := h.1
    clear h
    induction m with
    | nil => by_cases hv : v = Config.unlistedByte <;> simp [Memory.write, hv]
    | cons d m ih =>
      obtain ⟨a, w⟩ := d
      obtain ⟨above, rest⟩ := List.pairwise_cons.mp sorted
      simp only [Memory.write]
      split
      · rename_i hia
        split
        · exact sorted
        · refine List.pairwise_cons.mpr ⟨fun c hc => ?_, sorted⟩
          rcases List.mem_cons.mp hc with rfl | hc
          · exact hia
          · exact Nat.lt_trans hia (above c hc)
      · split
        · rename_i hia
          subst hia
          split
          · exact rest
          · exact List.pairwise_cons.mpr ⟨above, rest⟩
        · refine List.pairwise_cons.mpr ⟨fun c hc => ?_, ih rest⟩
          rcases Memory.mem_write hc with hc | ⟨rfl, -⟩
          · exact above c hc
          · show a < i
            omega
  · rcases Memory.mem_write hc with hc | ⟨rfl, hv⟩
    · exact h.2 c hc
    · exact ⟨hi, hv⟩

theorem Memory.wf_nil : Memory.wf [] := by decide

end Sys2Proof.Machine
end

