-- ==== Sys2Proof/Laws/PerInstr.lean ====
section
/-! SUPPORT. The per-instruction family FixedBits: the encoded word of every instruction has the fixed bits
of its row of spec/opcode_table.json (30_encoding.md R62, R65). -/

namespace Sys2Proof.Laws.FixedBits

/-- An encoding as a number of at most 16 bits, as the opcode table numbers it. -/
def codeWord : Code → Word
  | .request w => w
  | .wire b => b.setWidth 16

/-- The `mask` and `match` columns of the instruction's row. -/
def row : Instr → Word × Word
  | .init => (0xFFFF, 0x1000)
  | .scmd _ => (0xFF00, 0x2000)
  | .ldp _ _ => (0xF000, 0x3000)
  | .sbulk _ _ => (0xF000, 0x4000)
  | .swr1 _ _ => (0xF000, 0x5000)
  | .rdbtn => (0xFFFF, 0x6000)
  | .enc _ => (0xFF00, 0x7000)
  | .smp _ => (0xFF00, 0x8000)
  | .wDisplay _ => (0xF8, 0x88)
  | .wWriteAuto => (0xFF, 0x40)
  | .wRead => (0xFF, 0x42)
  | .wWriteFixed => (0xFF, 0x44)
  | .wAddr _ => (0xF0, 0xC0)

/-- The encoded word, masked, is the row's match. -/
def Statement (i : Instr) : Prop := codeWord (encode i) &&& (row i).1 = (row i).2

/-- A word of format I or Z without operand bits under the mask. -/
theorem masked_high (op x : Nibble) (imm : Byte) :
    requestWord op x imm &&& 0xF000#16 = op.setWidth 16 <<< 12 := by
  apply BitVec.eq_of_getLsbD_eq
  intro i hi
  interval_cases i <;> simp [requestWord]

theorem masked_high_x (op : Nibble) (imm : Byte) :
    requestWord op 0 imm &&& 0xFF00#16 = op.setWidth 16 <<< 12 := by
  apply BitVec.eq_of_getLsbD_eq
  intro i hi
  interval_cases i <;> simp [requestWord]

theorem init : Statement .init := by unfold Statement; decide

theorem scmd (c : Byte) : Statement (.scmd c) := masked_high_x 2 c

theorem ldp (i : Nibble) (v : Byte) : Statement (.ldp i v) := masked_high 3 i v

theorem sbulk (a : Nibble) (n : Byte) : Statement (.sbulk a n) := masked_high 4 a n

theorem swr1 (a : Nibble) (v : Byte) : Statement (.swr1 a v) := masked_high 5 a v

theorem rdbtn : Statement .rdbtn := by unfold Statement; decide

theorem enc (v : Byte) : Statement (.enc v) := masked_high_x 7 v

theorem smp (c : Byte) : Statement (.smp c) := masked_high_x 8 c

theorem wDisplay (b : BitVec 3) : Statement (.wDisplay b) := by
  unfold Statement
  revert b
  decide

theorem wWriteAuto : Statement .wWriteAuto := by unfold Statement; decide

theorem wRead : Statement .wRead := by unfold Statement; decide

theorem wWriteFixed : Statement .wWriteFixed := by unfold Statement; decide

theorem wAddr (a : Nibble) : Statement (.wAddr a) := by
  unfold Statement
  revert a
  decide

end Sys2Proof.Laws.FixedBits
end

