-- ==== Sys2Proof/Tests/Slice0.lean ====
section
/-! SUPPORT. Tests: words written out from the spec's encodings, the vectors of 95_test_vectors.md on single
steps, the ill-formed term, and for every statement of the certificates with hypotheses a witness that meets
them. The expected values are the spec's, cited beside each test. -/

namespace Sys2Proof.Tests

open Sys2Proof Sys2Proof.Machine

/-! ### States the tests start from -/

/-- A configured idle block with some history. -/
def idle : State :=
  { State.reset with
    cfg := true, last := 0x05, res := 0x11, dioOut := true, pay := [(0, 0xAA), (1, 0x55)] }

/-- The idle block after its host has presented a word at an ordinary edge. -/
def presenting (w : Word) : State := { idle with requests := [w, 0x1000], env := [plainEdge] }

/-- A busy block at a position of the request whose word is given. -/
def busyAt (w : Word) (ph : Phase) (ix : BitVec 5) (hs : BitVec 4) (stb clk dir : Bool) : State :=
  { idle with
    ir := w, busy := true, seq := ⟨ph, ix, hs⟩, stb := stb, clk := clk, dir := dir
    requests := [0x1000], env := [{ plainEdge with giveUp := true, dio := true }] }

/-- A faulted block. -/
def faulted : State :=
  { idle with flt := .illegalRequest, ir := 0x9000, requests := [0x1000], env := [plainEdge] }

/-- A button read at its last step. -/
def rising : State := { busyAt 0x6000 .stbRise 0 0 false true true with btn := 0x95 }

/-! ### Decoding: one word per row, written out bit by bit -/

theorem test_decode_init : decodeTableWord 16 0b0001000000000000 = some .init := by decide
theorem test_decode_scmd : decodeTableWord 16 0b0010000010001111 = some (.scmd 0x8F) := by decide
theorem test_decode_ldp : decodeTableWord 16 0b0011101001011011 = some (.ldp 10 0x5B) := by decide
theorem test_decode_sbulk : decodeTableWord 16 0b0100001100000010 = some (.sbulk 3 2) := by decide
theorem test_decode_swr1 : decodeTableWord 16 0b0101001000111111 = some (.swr1 2 0x3F) := by decide
theorem test_decode_rdbtn : decodeTableWord 16 0b0110000000000000 = some .rdbtn := by decide
theorem test_decode_enc : decodeTableWord 16 0b0111000000010010 = some (.enc 0x12) := by decide
theorem test_decode_smp : decodeTableWord 16 0b1000000000000101 = some (.smp 0x05) := by decide
theorem test_decode_wDisplay : decodeTableWord 8 0b10001101 = some (.wDisplay 5) := by decide
theorem test_decode_wWriteAuto : decodeTableWord 8 0b01000000 = some .wWriteAuto := by decide
theorem test_decode_wRead : decodeTableWord 8 0b01000010 = some .wRead := by decide
theorem test_decode_wWriteFixed : decodeTableWord 8 0b01000100 = some .wWriteFixed := by decide
theorem test_decode_wAddr : decodeTableWord 8 0b11001110 = some (.wAddr 14) := by decide

/-- R64, V-F2, V-T6, V-F3, V-S1: illegal words, each rejected by its name. -/
theorem test_decode_illegal :
    decodeRequest 0x0000 = .error .unknownOp ∧ decodeRequest 0xFFFF = .error .unknownOp ∧
    decodeRequest 0x9000 = .error .unknownOp ∧ decodeRequest 0x1001 = .error .nonZeroBits ∧
    decodeRequest 0x6100 = .error .nonZeroBits ∧ decodeRequest 0x7112 = .error .nonZeroBits ∧
    decodeRequest 0x4011 = .error .countOver16 ∧ decodeWire 0x80 = .error .noWireCommand :=
  ⟨rfl, rfl, rfl, rfl, rfl, rfl, rfl, rfl⟩

/-- R68: the example words, encoded. -/
theorem test_encode_examples :
    encode (.scmd 0x8F) = .request 0x208F ∧ encode (.ldp 10 0x5B) = .request 0x3A5B ∧
    encode (.sbulk 0 16) = .request 0x4010 ∧ encode (.swr1 2 0x3F) = .request 0x523F ∧
    encode (.enc 0xFF) = .request 0x70FF ∧ encode (.smp 0x05) = .request 0x8005 ∧
    encode (.wAddr 2) = .wire 0xC2 ∧ encode (.wDisplay 7) = .wire 0x8F := by decide

/-- R68: the example lines of the syntax table, and V-T3's line with a count of 17, whose word is illegal. -/
theorem test_assemble :
    assemble "INIT" [] = some 0x1000 ∧ assemble "LDP" [10, 0x5B] = some 0x3A5B ∧
    assemble "SBULK" [0, 16] = some 0x4010 ∧ assemble "ENC" [18] = some 0x7012 ∧
    assemble "ENC" [-1] = some 0x70FF ∧ assemble "SMP" [0x05] = some 0x8005 ∧
    assemble "SBULK" [0, 17] = some 0x4011 ∧ assemble "LDP" [16, 0] = none := by decide

/-- The one check of WellFormed refuses a count of 17 and accepts 16 and 0 (R64). -/
theorem test_wellFormed_count :
    (Instr.sbulk 0 17).wellFormed = false ∧ (Instr.sbulk 0 16).wellFormed = true ∧
    (Instr.sbulk 15 0).wellFormed = true := by decide

/-! ### One small test per instruction -/

/-- What a test looks at after a step. -/
def after (r : Result) (f : State → Bool) : Bool :=
  match r with
  | .next t => f t
  | _ => false

/-- V-T6: INIT from reset. -/
theorem test_init : after (exec .init State.reset) (fun t =>
    t.status == 0x02 && t.trace == [⟨true, true, true, false, none⟩]) = true := by decide

/-- V-T1 step 0, V-F4: SCMD 0x8F accepted, `STATUS = 0x03`. -/
theorem test_scmd : after (exec (.scmd 0x8F) idle) (fun t => t.status == 0x03 && t.ir == 0x208F) = true := by
  decide

/-- V-F1: SCMD before INIT. -/
theorem test_scmd_unconfigured : after (exec (.scmd 0x8F) State.reset) (fun t =>
    t.status == 0x08 && t.ir == 0x208F && t.trace == []) = true := by decide

/-- V-T7: LDP works before INIT; the last cell. -/
theorem test_ldp : after (exec (.ldp 15 0xFF) State.reset) (fun t =>
    Memory.read t.pay 15 == 0xFF && Memory.read t.pay 14 == 0x00 && t.trace == []) = true := by decide

/-- R85: a later LDP replaces the value, and 0x00 leaves no entry. -/
theorem test_ldp_again : after (exec (.ldp 1 0x00) idle) (fun t => t.pay == [(0, 0xAA)]) = true := by decide

/-- V-T3, V-F3: an SBULK of 17 is illegal, also before INIT; one of 0 is not. -/
theorem test_sbulk : after (exec (.sbulk 0 17) State.reset) (fun t => t.status == 0x04) = true ∧
    after (exec (.sbulk 0 0) idle) (fun t => t.status == 0x03) = true := by decide

/-- R90: SWR1 15, 0xFF is 0x5FFF. -/
theorem test_swr1 : after (exec (.swr1 15 0xFF) idle) (fun t => t.ir == 0x5FFF && t.busy) = true := by decide

/-- R91: RDBTN clears the receiver and keeps `RES`. -/
theorem test_rdbtn : after (exec .rdbtn { idle with acc := 0xFF, btn := 0xFF }) (fun t =>
    t.acc == 0x00 && t.btn == 0x00 && t.res == 0x11 && t.last == 0x05) = true := by decide

/-- V-S1 and S1: the encoder at its corners. -/
theorem test_enc :
    [0, 2, 3, 4, 9, 15, 16, 18, 25, 31, 32, 127, 128, 240, 255].map (fun v => segEncode (BitVec.ofNat 8 v)) =
      [0x3F, 0x5B, 0x4F, 0x66, 0x6F, 0x71, 0xBF, 0xDB, 0xEF, 0xF1, 0x00, 0x00, 0x00, 0x00, 0x00] := by
  decide

/-- P4: ENC 17 before INIT. -/
theorem test_enc_exec : after (exec (.enc 17) State.reset) (fun t => t.res == 0x86 && t.flt == .none) = true := by
  decide

/-- R121's example: `LAST = 0x05`, SMP 0x04. -/
theorem test_smp : after (exec (.smp 0x04) idle) (fun t => t.res == 0x01 && t.last == 0x04) = true := by decide

/-- V-B1: button 2 released while button 0 is pressed again. -/
theorem test_smp_mixed :
    after (exec (.smp 0x01) { idle with last := 0x04 }) (fun t => t.res == 0x04 && t.last == 0x01) = true := by
  decide

/-- V-T1, steps 2 and 3: bit 0 of 0x8F. -/
theorem test_wDisplay :
    after (exec (.wDisplay 7) (busyAt 0x208F .tx 0 0 false true true)) (fun t =>
      t.trace == [⟨false, false, true, true, none⟩] && t.seq == ⟨.tx, 0, 1⟩) = true ∧
    after (exec (.wDisplay 7) (busyAt 0x208F .tx 0 15 false false true)) (fun t =>
      t.clk && t.seq == ⟨.stbRise, 0, 0⟩) = true := by decide

/-- V-T2: 0x40 in wire order is 00000010. -/
theorem test_wWriteAuto :
    after (exec .wWriteAuto (busyAt 0x4000 .tx 0 12 false true true)) (fun t => t.dioOut && !t.clk) = true ∧
    after (exec .wWriteAuto (busyAt 0x4000 .tx 0 14 false true true)) (fun t => !t.dioOut) = true := by decide

/-- V-T2: 0x42 in wire order is 01000010; after it comes DirIn (R20). -/
theorem test_wRead :
    after (exec .wRead (busyAt 0x6000 .tx 0 2 false true true)) (fun t => t.dioOut) = true ∧
    after (exec .wRead (busyAt 0x6000 .tx 0 15 false false true)) (fun t => t.seq == ⟨.dirIn, 0, 0⟩) = true := by
  decide

/-- V-T2: 0x44 in wire order is 00100010. -/
theorem test_wWriteFixed :
    after (exec .wWriteFixed (busyAt 0x5000 .tx 0 4 false true true)) (fun t => t.dioOut) = true ∧
    after (exec .wWriteFixed (busyAt 0x5000 .tx 0 2 false true true)) (fun t => !t.dioOut) = true := by decide

/-- V-T2: 0xC0 in wire order is 00000011; the address is in the low bits (R66). -/
theorem test_wAddr :
    after (exec (.wAddr 0) (busyAt 0x4000 .tx 1 14 false true true)) (fun t => t.dioOut) = true ∧
    after (exec (.wAddr 2) (busyAt 0x4200 .tx 1 2 false true true)) (fun t => t.dioOut) = true ∧
    after (exec (.wAddr 2) (busyAt 0x4200 .tx 1 0 false true true)) (fun t => !t.dioOut) = true := by decide

/-! ### The engine, the port, the reset -/

/-- R42, R92: a sampled bit enters at bit 0 and pushes the others left; the last one joins the union
shifted by the slot index. -/
theorem test_rx :
    after (engineStep true { busyAt 0x6000 .rx 2 15 false false false with acc := 0x40, btn := 0x01 }) (fun t =>
      t.acc == 0x81 && t.btn == 0x21 && t.seq == ⟨.rx, 3, 0⟩) = true ∧
    after (engineStep true { busyAt 0x6000 .rx 2 14 false true false with acc := 0x40 }) (fun t =>
      t.acc == 0x40 && !t.clk) = true := by decide

/-- U6: the two receive variants on the example of R91, slot bytes and union. -/
theorem test_rx_variants :
    rxUnion .b (rxUnion .b (rxUnion .b (rxUnion .b 0 0x80 0) 0x08 1) 0x00 2) 0x88 3 = 0x95 ∧
    rxUnion .a (rxUnion .a (rxUnion .a (rxUnion .a 0 0x01 0) 0x10 1) 0x00 2) 0x11 3 = 0xA9 ∧
    rxShift .a 0xFF 4 false = 0xEF ∧ rxShift .a 0x00 4 true = 0x10 := by decide

/-- R91's slots in drawing order: 10000000, 00001000 and 10001000 are 0x80, 0x08 and 0x88. -/
theorem test_slotByte :
    slotByte [false, true, false, false, false, false, false, false,
      false, false, false, false, false, false, false, false] = 0x80 ∧
    slotByte [false, true, true, false, true, false, true, false,
      true, true, true, false, true, false, true, false] = 0x88 := by decide

/-- V-T5, step 84: StbRise hands the union to `RES`. -/
theorem test_stbRise :
    after (engineStep false { busyAt 0x6000 .stbRise 0 0 false true true with btn := 0x95 }) (fun t =>
      t.res == 0x95 && t.stb && !t.busy) = true := by decide

/-- V-F2: the word 0x9000 after INIT. -/
theorem test_step_illegal : after (step (presenting 0x9000)) (fun t =>
    t.status == 0x06 && t.ir == 0x9000 && t.requests == [0x1000]) = true := by decide

/-- V-F1: after a fault the next word is not accepted. -/
theorem test_step_faulted : after (step faulted) (fun t =>
    t.flt == .illegalRequest && t.requests == [0x1000] && t.ir == 0x9000) = true := by decide

/-- R170, R172: reset in the middle of a transaction. -/
theorem test_step_reset : after
    (step { busyAt 0x208F .tx 0 3 false false true with env := [{ plainEdge with rst := true }] }) (fun t =>
      t.stb && !t.cfg && !t.busy && t.pay == []) = true := by decide

/-- The placed instruction is what the next step runs, from reset. -/
theorem test_withFetchWord :
    after (step (State.reset.withFetchWord 16 0x7002)) (fun t => t.res == 0x5B) = true ∧
    after (step (State.reset.withFetchWord 8 0xC1)) (fun t => t.dioOut && t.seq == ⟨.tx, 1, 1⟩) = true := by
  decide

/-- R9 on V-T1: the trace of SCMD 0x8F carries the byte 0x8F. -/
theorem test_wireBytes : wireBytes ((⟨false, true, true, false, none⟩ :: txEntries 0x8F) ++
    [⟨true, true, true, true, none⟩]) = [[0x8F]] := by decide

/-! ### Host sequences -/

/-- The answer of a host computation that ended. -/
def answer {α : Type} : HostRun α → Option α
  | .done a _ _ => some a
  | _ => none

/-- S4 and R136: SETTIMER 125 and 124, on a block before INIT. -/
theorem test_setTimer :
    (((Driver.mk [] 0).setTimer 125 [] State.reset).bind answer).map
      (fun d => [8, 10, 12, 14].map (Memory.read d.db)) = some [0x3F, 0x5B, 0x3F, 0x6D] ∧
    (((Driver.mk [] 0).setTimer 124 [] State.reset).bind answer).map
      (fun d => [8, 10, 12, 14].map (Memory.read d.db)) = some [0x3F, 0xDB, 0x3F, 0x66] := by decide

/-- S5 and R134: SETLEDS 0x01. -/
theorem test_setLeds : ((Driver.mk [(1, 0x01)] 0).setLeds 0x01).db = [(15, 0x01)] := by decide

/-- R135's example: SETDIGIT 2, 7 reads 0x07 and sets cell 4. -/
theorem test_setDigit :
    (answer ((Driver.mk [] 0).setDigit 2 7 [] idle)).map Driver.db = some [(4, 0x07)] := by decide

/-- R130, V-F4: a request issued while a transaction is open is accepted after its last step, and with too few
ticks it is still presented. -/
theorem test_issue_waits :
    after (match issue (.enc 7) [false] rising with
      | .done _ t _ => .next t
      | _ => .fault .sequencerLost) (fun t => t.res == 0x07 && !t.busy) = true ∧
    issue (.enc 7) [] rising = .presenting (.enc 7) rising := by decide

/-- R131: SETUP on a faulted block is not accepted, and leaves nothing lost. -/
theorem test_setup_faulted :
    (Driver.mk [] 0).setup 7 0 [] faulted = .presenting .init faulted ∧ setupFailed faulted = true := by decide

/-- P1: the 19 requests of SETUP 7. -/
theorem test_setup : ((Driver.mk [(3, 0x77)] 0xFF).setupRequests 7 0).map encode =
    [.request 0x1000, .request 0x208F] ++
      ((List.range 16).map fun j => Code.request (0x3000#16 + BitVec.ofNat 16 (256 * j))) ++
      [.request 0x4010] := by decide

/-- R137's example: cell 15 is dark at 250 ms and lit at 750 ms. -/
theorem test_flush_blinks :
    Memory.read ((Driver.mk [(15, 0x01)] 0x01).image 250) 15 = 0x00 ∧
    Memory.read ((Driver.mk [(15, 0x01)] 0x01).image 750) 15 = 0x01 := by decide

/-! ### Witnesses: the hypotheses of the statements can be met -/

theorem idle_inv : idle.Inv := by
  constructor <;> simp [idle, State.reset, State.phaseOk]
  decide

theorem presenting_inv (w : Word) : (presenting w).Inv := by
  constructor <;> simp [presenting, idle, State.reset, State.phaseOk]
  decide

theorem faulted_inv : faulted.Inv := by
  constructor <;> simp [faulted, idle, State.reset, State.phaseOk]
  decide

/-- A transmission of SWR1 2, 0x3F at its second byte. -/
def sending : State := busyAt 0x523F .tx 1 0 false true true

theorem sending_inv : sending.Inv := by
  constructor
  · decide
  · decide
  · decide
  · decide
  · exact fun _ => ⟨.swr1 2 0x3F, by decide, rfl⟩
  · decide
  · simp only [State.phaseOk, sending, busyAt]
    decide

theorem rising_inv : rising.Inv := by
  constructor
  · decide
  · decide
  · decide
  · decide
  · exact fun _ => ⟨.rdbtn, by decide, rfl⟩
  · decide
  · simp only [State.phaseOk, rising, busyAt]
    decide

theorem witness_DecodeOfEncode : (Instr.sbulk 15 16).wellFormed = true := by decide

theorem witness_EncodeOfDecode :
    decode (.request 0x4F10) = .ok (.sbulk 15 16) ∧ decode (.wire 0xCF) = .ok (.wAddr 15) := ⟨rfl, rfl⟩

theorem witness_IllegalWordsRaiseIllegalRequest :
    idle.ready = true ∧ ∃ e, decodeRequest 0x4011 = .error e := ⟨by decide, _, rfl⟩

theorem witness_ResetEdgeOverridesEverything :
    ({ sending with env := [{ plainEdge with rst := true }] } : State).edgeInput.rst = true := by decide

/-- For every statement whose hypotheses are a ready block, configured lines, the invariant or the form of
the payload: InitConfiguresLines, LdpStoresOneCell, EncResultByRange, EncPointLaw, SmpReportsReleaseEdges,
SmpAgainReportsNothing, TransportRequestsStartEngine. -/
theorem witness_ready : idle.ready = true ∧ idle.cfg = true ∧ idle.Inv ∧ Memory.wf idle.pay :=
  ⟨by decide, by decide, idle_inv, idle_inv.payOk⟩

theorem witness_FirstSampleReportsNothing :
    State.reset.ready = true ∧ State.reset.last = State.reset.last := by decide

theorem witness_TransportNeedsConfiguredLines :
    isTransport (.sbulk 0 16) = true ∧ (Instr.sbulk 0 16).wellFormed = true ∧
    encode (.sbulk 0 16) = .request 0x4010 ∧ State.reset.ready = true ∧ State.reset.cfg = false ∧
    ∃ t, exec .init State.reset = .next t :=
  ⟨rfl, rfl, by decide, by decide, rfl, _, rfl⟩

/-- One witness for each clause of ChecksInOrder. -/
theorem witness_ChecksInOrder :
    faulted.flt ≠ .none ∧ sending.busy = true ∧
    (idle.ready = true ∧ decodeRequest 0x9000 = .error .unknownOp) ∧
    (State.reset.ready = true ∧ decodeRequest 0x6000 = .ok .rdbtn ∧ isTransport .rdbtn = true ∧
      State.reset.cfg = false) ∧
    (idle.ready = true ∧ decodeRequest 0x6000 = .ok .rdbtn ∧ (isTransport .rdbtn = true → idle.cfg = true)) :=
  ⟨by decide, by decide, ⟨by decide, rfl⟩, ⟨by decide, rfl, rfl, rfl⟩, by decide, rfl, fun _ => rfl⟩

theorem witness_BulkCountOver16IsIllegal : idle.ready = true ∧ 16 < (17 : Byte).toNat := by decide

theorem witness_RequestsHoldUntilReady :
    encode .init = .request 0x1000 ∧ faulted.ready = false ∧ sending.ready = false := by decide

/-- Even and odd half-steps. -/
theorem witness_WireByteHalfStep :
    wireByte (.wAddr 2) = some 0xC2 ∧ sending.busy = true ∧ sending.seq.ph = .tx ∧
    sending.seq.hs.toNat % 2 = 0 ∧ (busyAt 0x523F .tx 1 15 false false true).seq.hs.toNat % 2 = 1 := by decide

theorem witness_WireByteInSixteenHalfSteps :
    wireByte (.wAddr 2) = some 0xC2 ∧ sending.Inv ∧ sending.seq.ph = .tx ∧ sending.seq.hs = 0 :=
  ⟨by decide, sending_inv, by decide, by decide⟩

theorem witness_WireByteStopsOutsideTransmission :
    wireByte .wRead = some 0x42 ∧ idle.busy = false ∧
    (busyAt 0x6000 .rx 3 15 false false false).seq.ph ≠ .tx := by decide

theorem witness_FramingSteps :
    (busyAt 0x6000 .stbFall 0 0 true true true).seq.ph = .stbFall ∧
    (busyAt 0x6000 .dirIn 0 0 false true true).seq.ph = .dirIn ∧
    (busyAt 0x6000 .dirOut 0 0 false true false).seq.ph = .dirOut ∧ rising.seq.ph = .stbRise := by decide

/-- An even half-step, an odd one before the last, and the last. -/
theorem witness_ReceiveHalfStep :
    (busyAt 0x6000 .rx 3 14 false true false).seq.ph = .rx ∧
    (busyAt 0x6000 .rx 3 14 false true false).seq.ix.toNat < 4 ∧
    (busyAt 0x6000 .rx 3 14 false true false).seq.hs.toNat % 2 = 0 ∧
    (busyAt 0x6000 .rx 3 13 false false false).seq.hs.toNat % 2 = 1 ∧
    (busyAt 0x6000 .rx 3 13 false false false).seq.hs.toNat < 15 ∧
    (busyAt 0x6000 .rx 3 15 false false false).seq.hs.toNat = 15 := by decide

/-- A button read before its last slot. -/
def sampling : State := busyAt 0x6000 .rx 3 0 false true false

theorem sampling_inv : sampling.Inv := by
  constructor
  · decide
  · decide
  · decide
  · decide
  · exact fun _ => ⟨.rdbtn, by decide, rfl⟩
  · decide
  · simp only [State.phaseOk, sampling, busyAt, State.reading]
    decide

theorem witness_SlotFirstBitIsTopBit :
    sampling.Inv ∧ sampling.seq.ph = .rx ∧ sampling.seq.hs = 0 ∧ (List.replicate 16 true).length = 16 :=
  ⟨sampling_inv, by decide, by decide, List.length_replicate⟩

theorem witness_SequencerTable :
    (isTransport (.swr1 2 0x3F) = true ∧ (Instr.swr1 2 0x3F).wellFormed = true ∧
      encode (.swr1 2 0x3F) = .request 0x523F ∧ idle.ready = true ∧ idle.cfg = true) ∧
    (sending.Inv ∧ sending.busy = true ∧ ∃ t, engineStep true sending = .next t) ∧
    (rising.Inv ∧ rising.busy = true ∧ ∃ t, engineStep true rising = .next t) :=
  ⟨by decide, ⟨sending_inv, by decide, _, rfl⟩, rising_inv, by decide, _, rfl⟩

/-- For ScmdTransaction, SingleWriteTransaction, ButtonReadTransaction and PollReportsReleases. -/
theorem witness_transactions :
    idle.Inv ∧ idle.ready = true ∧ idle.cfg = true ∧
    (List.replicate 18 true).length = 18 ∧ (List.replicate 50 true).length = 50 ∧
    (List.replicate 84 true).length = 84 :=
  ⟨idle_inv, by decide, rfl, List.length_replicate, List.length_replicate, List.length_replicate⟩

/-- The smallest and the largest count. -/
theorem witness_BulkWriteTransaction :
    idle.Inv ∧ idle.ready = true ∧ idle.cfg = true ∧
    ((0 : Byte).toNat ≤ 16 ∧ (List.replicate 34 true).length = 34 + 16 * (0 : Byte).toNat) ∧
    ((16 : Byte).toNat ≤ 16 ∧ (List.replicate 290 true).length = 34 + 16 * (16 : Byte).toNat) :=
  ⟨idle_inv, by decide, rfl, ⟨by decide, List.length_replicate⟩, by decide, List.length_replicate⟩

theorem witness_StepRunsAcceptedRequest :
    let s := presenting 0x6000
    s.edgeInput.rst = false ∧ s.edgeInput.present = true ∧ s.ready = true ∧
    s.requests = 0x6000 :: [0x1000] ∧ decodeRequest 0x6000 = .ok .rdbtn :=
  ⟨rfl, rfl, by decide, rfl, rfl⟩

theorem witness_StepRunsWireByte :
    sending.edgeInput.rst = false ∧ sending.edgeInput.tick = true ∧ sending.busy = true ∧
    sending.seq.ph = .tx ∧ sending.currentItem = some (.command (.wAddr 2)) := by decide

theorem witness_StepRejectsIllegalWord :
    let s := presenting 0x0000
    s.edgeInput.rst = false ∧ s.edgeInput.present = true ∧ s.ready = true ∧
    s.requests = 0x0000 :: [0x1000] ∧ ∃ e, decodeRequest 0x0000 = .error e :=
  ⟨rfl, rfl, by decide, rfl, _, rfl⟩

theorem witness_StepTicksEngine :
    sending.edgeInput.rst = false ∧ sending.busy = true ∧ sending.edgeInput.tick = true := by decide

theorem witness_BusyBlockWaitsForTick :
    let s : State := { sending with env := [{ plainEdge with tick := false }] }
    s.edgeInput.rst = false ∧ s.busy = true ∧ s.edgeInput.tick = false := by decide

theorem witness_FaultedBlockStands : faulted.Inv ∧ faulted.flt ≠ .none ∧ faulted.edgeInput.rst = false :=
  ⟨faulted_inv, by decide, by decide⟩

theorem witness_WaitingWordsDoNotMatter : sending.ready = false ∧ ∃ t, step sending = .next t :=
  ⟨by decide, _, rfl⟩

/-- For StepKeepsInvariant, StepNeverStops and TraceGrowsByOneEntry. -/
theorem witness_steps : sending.Inv ∧ ∃ t, step sending = .next t := ⟨sending_inv, _, rfl⟩

theorem witness_EveryTickBringsTheEndNearer :
    sending.Inv ∧ sending.busy = true ∧ sending.edgeInput.rst = false ∧ sending.edgeInput.tick = true :=
  ⟨sending_inv, by decide, by decide, by decide⟩

theorem witness_EngineStepCounts :
    idle.Inv ∧ idle.ready = true ∧ idle.cfg = true ∧ (Instr.sbulk 0 16).wellFormed = true ∧
    encode (.sbulk 0 16) = .request 0x4010 ∧ ∃ t, exec (.sbulk 0 16) idle = .next t :=
  ⟨idle_inv, by decide, rfl, rfl, by decide, _, rfl⟩

theorem witness_OpenTransactionIsNotInterrupted :
    sending.Inv ∧ sending.busy = true ∧ sending.edgeInput.rst = false ∧ ∃ t, step sending = .next t :=
  ⟨sending_inv, by decide, by decide, _, rfl⟩

/-- Both ways `CFG` can change. -/
theorem witness_OnlyInitSetsOnlyResetClearsCfg :
    (idle.Inv ∧ ∃ t, step ({ idle with env := [{ plainEdge with rst := true }] }) = .next t ∧ t.cfg ≠ idle.cfg) ∧
    (∃ t, step ({ State.reset with requests := [0x1000], env := [plainEdge] }) = .next t ∧
      t.cfg ≠ State.reset.cfg) :=
  ⟨⟨idle_inv, _, rfl, by decide⟩, _, rfl, by decide⟩

theorem witness_OnlySmpWritesLast :
    (presenting 0x8004).Inv ∧ (presenting 0x8004).edgeInput.rst = false ∧
    ∃ t, step (presenting 0x8004) = .next t ∧ t.last ≠ (presenting 0x8004).last :=
  ⟨presenting_inv _, rfl, _, rfl, by decide⟩

/-- The three ways `RES` can change. -/
theorem witness_OnlyThreeRequestsWriteRes :
    ((presenting 0x7002).Inv ∧ ∃ t, step (presenting 0x7002) = .next t ∧ t.res ≠ (presenting 0x7002).res) ∧
    ((presenting 0x8004).Inv ∧ ∃ t, step (presenting 0x8004) = .next t ∧ t.res ≠ (presenting 0x8004).res) ∧
    (rising.Inv ∧ rising.edgeInput.rst = false ∧ ∃ t, step rising = .next t ∧ t.res ≠ rising.res) :=
  ⟨⟨presenting_inv _, _, rfl, by decide⟩, ⟨presenting_inv _, _, rfl, by decide⟩,
    rising_inv, by decide, _, rfl, by decide⟩

theorem witness_OnlyLdpWritesPayload :
    (presenting 0x3F12).Inv ∧ (presenting 0x3F12).edgeInput.rst = false ∧
    ∃ t, step (presenting 0x3F12) = .next t ∧
      Memory.read t.pay 15 ≠ Memory.read (presenting 0x3F12).pay 15 :=
  ⟨presenting_inv _, rfl, _, rfl, by decide⟩

theorem witness_NonLdpKeepsPayload :
    (∀ x v, Instr.rdbtn ≠ .ldp x v) ∧ ∃ t, exec .rdbtn idle = .next t :=
  ⟨fun _ _ => by simp, _, rfl⟩

/-- A finished run, a word accepted, and a word given up. -/
theorem witness_FinishedRunIsIdle :
    (idle.Inv ∧ idle.runOver) ∧
    (∃ t, step (presenting 0x7002) = .next t ∧ t.requests = [0x1000] ∧ t.givenUp = []) ∧
    ∃ t, step sending = .next t ∧ t.requests = [] ∧ t.givenUp = [0x1000] :=
  ⟨⟨idle_inv, rfl, rfl, rfl, rfl⟩, ⟨_, rfl, rfl, rfl⟩, _, rfl, rfl, rfl⟩

/-- For SetLedsReversesBits, SetTimerReadsBack (its three ranges at their bounds) and SetDigitWaitsAndWrites. -/
theorem witness_driver :
    Memory.wf (Driver.mk [(1, 0x01), (8, 0x77)] 0x81).db ∧ (0 < 6000 ∧ 5999 < 6000) ∧ (-1 : Int) < 0 ∧ (6000 : Int) ≤ 6000 ∧ idle.ready = true ∧
    Memory.wf idle.pay := by decide

/-- A finished, an unfinished and a faulted block. -/
theorem witness_SetDigitWaitsAndWrites :
    Memory.wf (Driver.mk [(1, 0x01), (8, 0x77)] 0x81).db ∧
    (rising.Inv ∧ rising.flt = .none ∧ [true].length = rising.stepsLeft) ∧
    (idle.Inv ∧ idle.flt = .none ∧ ([] : List Bool).length = idle.stepsLeft) ∧
    (rising.Inv ∧ rising.flt = .none ∧ ([] : List Bool).length < rising.stepsLeft) ∧
    (faulted.Inv ∧ faulted.flt ≠ .none) :=
  ⟨by decide, ⟨rising_inv, by decide, by decide⟩, ⟨idle_inv, by decide, by decide⟩,
    ⟨rising_inv, by decide, by decide⟩, faulted_inv, by decide⟩

theorem witness_FlushSendsImage :
    Memory.wf (Driver.mk [(15, 0x01)] 0x01).db ∧ idle.Inv ∧ idle.ready = true ∧ idle.cfg = true ∧
    (List.replicate 290 true).length = 290 :=
  ⟨by decide, idle_inv, by decide, rfl, List.length_replicate⟩

end Sys2Proof.Tests
end

section
/-! SUPPORT. The request decoder and encoder as inverses on words, and what they say about the words of ENC,
SMP and RDBTN (30_encoding.md R60 to R64, R68). -/

namespace Sys2Proof

/-- The word of a well-formed request is decoded to that request. -/
theorem decodeRequest_of_encode {i : Instr} {w : Word} (hwf : i.wellFormed = true)
    (he : encode i = .request w) : decodeRequest w = .ok i := by
  cases i <;> simp only [encode, reduceCtorEq, Code.request.injEq] at he <;> subst he <;>
    simp [decodeRequest]
  case sbulk a n => simpa [Instr.wellFormed] using hwf

/-- A word put together again from its fields, with the op code given as a number. -/
theorem requestWord_of_opField {w : Word} {k : Nat} (h : (opField w).toNat = k) :
    requestWord (BitVec.ofNat 4 k) (xField w) (immField w) = w := by
  rw [← h, BitVec.ofNat_toNat, BitVec.setWidth_eq, requestWord_fields]

/-- The decoder answers well-formed requests only, each encoded by the decoded word. -/
theorem encode_of_decodeRequest {w : Word} {i : Instr} (h : decodeRequest w = .ok i) :
    i.wellFormed = true ∧ encode i = .request w := by
  unfold decodeRequest at h
  split at h <;> rename_i hop
  case h_9 => cases h
  all_goals
    have hw := requestWord_of_opField hop
    grind [encode, Instr.wellFormed]

/-- A word of format I without its 4-bit field (R60). -/
theorem requestWord_zero_x (op : Nibble) (imm : Byte) :
    requestWord op 0 imm = (op.setWidth 16 <<< 12) ||| imm.setWidth 16 := by
  simp [requestWord]

/-- 0x6000 is the only word of RDBTN (R62). -/
theorem word_of_decodeRequest_rdbtn {w : Word} (h : decodeRequest w = .ok .rdbtn) : w = 0x6000 := by
  obtain ⟨-, he⟩ := encode_of_decodeRequest h
  exact (Code.request.inj he).symm

end Sys2Proof
end

section
/-! SUPPORT. The request that runs, its number of bytes, and the sequencer's position along a byte or a slot
(10_state.md R20). -/

namespace Sys2Proof.Machine

theorem running_eq_some {s : State} {i : Instr} :
    s.running = some i ↔ decodeRequest s.ir = .ok i := by
  unfold State.running accepted
  cases decodeRequest s.ir <;> simp

/-- Once a well-formed request is latched, it is the request that runs. -/
theorem running_of_ir {s : State} {i : Instr} {w : Word} (hwf : i.wellFormed = true)
    (he : encode i = .request w) (hir : s.ir = w) : s.running = some i :=
  running_eq_some.mpr (hir ▸ decodeRequest_of_encode hwf he)

theorem runningTx_of_running {s : State} {i : Instr} (h : s.running = some i) :
    s.runningTx = nTx i := by
  simp [State.runningTx, h]

/-- A well-formed request sends 18 bytes at most: a command, an address and the 16 cells. -/
theorem nTx_le {i : Instr} (h : i.wellFormed = true) : nTx i ≤ 18 := by
  cases i <;> simp [nTx]
  case sbulk a n =>
    have : n.toNat ≤ 16 := by simpa [Instr.wellFormed] using h
    omega

theorem runningTx_le (s : State) : s.runningTx ≤ 18 := by
  cases h : s.running with
  | none => simp [State.runningTx, h]
  | some i =>
    rw [runningTx_of_running h]
    exact nTx_le (encode_of_decodeRequest (running_eq_some.mp h)).1

theorem half_ne_last_iff (h : BitVec 4) : h ≠ 15 ↔ h.toNat < 15 := by bv_omega

/-- The arrows out of TX (R20). -/
theorem seqAfterTx_of_tx {s : State} (hp : s.seq.ph = .tx) :
    s.seqAfterTx =
      if s.seq.hs.toNat < 15 then ⟨.tx, s.seq.ix, s.seq.hs + 1⟩
      else if s.seq.ix.toNat + 1 < s.runningTx then ⟨.tx, s.seq.ix + 1, 0⟩
      else if s.running = some .rdbtn then ⟨.dirIn, 0, 0⟩
      else ⟨.stbRise, 0, 0⟩ := by
  simp only [State.seqAfterTx, half_ne_last_iff, hp]

/-- The arrows out of RX (R20). -/
theorem seqAfterRx_of_rx {s : State} (hp : s.seq.ph = .rx) :
    s.seqAfterRx =
      if s.seq.hs.toNat < 15 then ⟨.rx, s.seq.ix, s.seq.hs + 1⟩
      else if s.seq.ix.toNat < 3 then ⟨.rx, s.seq.ix + 1, 0⟩
      else ⟨.dirOut, 0, 0⟩ := by
  simp only [State.seqAfterRx, half_ne_last_iff, hp, Config.rxSlots, Nat.add_lt_iff_lt_sub_right]

/-- The byte index stays below `NTX`, so at 17 at most. -/
theorem seqAfterTx_ix_le {s : State} (hix : s.seq.ix.toNat < s.runningTx) :
    s.seqAfterTx.ix.toNat ≤ 17 := by
  have hn := runningTx_le s
  unfold State.seqAfterTx
  split
  · show s.seq.ix.toNat ≤ 17
    omega
  · split
    · show (s.seq.ix + 1).toNat ≤ 17
      bv_omega
    · split <;> decide

/-- The slot index stays below the number of slots. -/
theorem seqAfterRx_ix_le {s : State} (hix : s.seq.ix.toNat < 4) : s.seqAfterRx.ix.toNat ≤ 17 := by
  unfold State.seqAfterRx
  split
  · show s.seq.ix.toNat ≤ 17
    omega
  · split
    · show (s.seq.ix + 1).toNat ≤ 17
      bv_omega
    · decide

/-- An accepted transport request stands at its first engine step with its word latched. -/
theorem exec_transport_starts {i : Instr} {w : Word} {s : State} (hi : isTransport i = true)
    (hwf : i.wellFormed = true) (he : encode i = .request w) (hr : s.ready = true)
    (hc : s.cfg = true) :
    ∃ t, exec i s = .next t ∧ t.ir = w ∧ t.seq = ⟨.stbFall, 0, 0⟩ := by
  have start : ∀ f : State → State, s.accept w true f = .next (f (s.latch w)) :=
    fun _ => accept_ready hr fun _ => hc
  cases i <;> simp only [isTransport, Bool.false_eq_true] at hi <;>
    simp only [encode, Code.request.injEq] at he <;> subst he
  case scmd c => exact ⟨_, start _, rfl, rfl⟩
  case sbulk a n =>
    have hn : n.toNat ≤ 16 := by simpa [Instr.wellFormed] using hwf
    exact ⟨_, (if_pos hn).trans (start _), rfl, rfl⟩
  case swr1 a v => exact ⟨_, start _, rfl, rfl⟩
  case rdbtn => exact ⟨_, start fun t => t.clearReceiver.startEngine, rfl, rfl⟩

/-- Settles O28: acceptance puts the sequencer at its start, and each engine step takes the arrow of its
phase; the index is bounded because a request sends 18 bytes at most. -/
theorem sequencerTable : Obligations.SequencerTable := by
  unfold Obligations.SequencerTable
  refine ⟨fun i w s hi hwf he hr hc => ?_, fun s t d hinv hb h => ?_⟩
  · obtain ⟨t, ht, hir, hseq⟩ := exec_transport_starts hi hwf he hr hc
    exact ⟨t, ht, hseq, runningTx_of_running (running_of_ir hwf he hir)⟩
  · have hphase := hinv.phase
    unfold State.phaseOk at hphase
    rcases engineStep_cases hb h with ⟨hp, rfl⟩ | ⟨hp, v, -, rfl⟩ | ⟨hp, rfl⟩ | ⟨hp, hix, rfl⟩ |
      ⟨hp, rfl⟩ | ⟨hp, rfl⟩ <;> simp only [hp] at hphase ⊢
    · simp [hb]
    · obtain ⟨hix, -⟩ := hphase
      simpa [hb] using And.intro (seqAfterTx_ix_le hix) (seqAfterTx_of_tx hp)
    · simp [hb]
    · simpa [hb] using And.intro (seqAfterRx_ix_le hix) (seqAfterRx_of_rx hp)
    · simp [hb]
    · simp

end Sys2Proof.Machine
end

section
/-! SUPPORT. Which operations write `RES` (10_state.md R11). -/

namespace Sys2Proof.Machine

/-- Of the requests only ENC and SMP change `RES` when they are executed, and they complete with their word
latched. -/
theorem exec_request_res {i : Instr} {w : Word} {s t : State} (he : encode i = .request w)
    (h : exec i s = .next t) (hres : t.res ≠ s.res) :
    t.ir = w ∧ ((∃ v, i = .enc v) ∨ ∃ c, i = .smp c) := by
  rcases exec_request_cases he h with ⟨-, rfl⟩ | ⟨-, -, rfl⟩ | ⟨-, -, -, rfl⟩ |
    ⟨-, -, -, rfl | ⟨-, rfl⟩⟩ | ⟨-, -, rfl⟩ | ⟨-, x, v, -, rfl⟩ | ⟨-, v, rfl, rfl⟩ | ⟨-, c, rfl, rfl⟩
  case inr.inr.inr.inr.inr.inr.inl => exact ⟨rfl, .inl ⟨v, rfl⟩⟩
  case inr.inr.inr.inr.inr.inr.inr => exact ⟨rfl, .inr ⟨c, rfl⟩⟩
  all_goals exact absurd (by simp) hres

/-- If the acceptance of a word changes `RES`, then it latches the word of an ENC or of an SMP. -/
theorem acceptWord_res {w : Word} {s t : State} (h : acceptWord w s = .next t)
    (hres : t.res ≠ s.res) :
    (∃ v : Byte, t.ir = 0x7000 ||| v.setWidth 16) ∨ ∃ c : Byte, t.ir = 0x8000 ||| c.setWidth 16 := by
  rcases acceptWord_cases h with ⟨i, hi, hx⟩ | ⟨e, -, hx⟩
  · obtain ⟨-, he⟩ := encode_of_decodeRequest hi
    obtain ⟨hir, ⟨v, rfl⟩ | ⟨c, rfl⟩⟩ := exec_request_res he hx hres
    · exact .inl ⟨v, by rw [hir, ← Code.request.inj he, requestWord_zero_x]; rfl⟩
    · exact .inr ⟨c, by rw [hir, ← Code.request.inj he, requestWord_zero_x]; rfl⟩
  · refine absurd ?_ hres
    cases hr : s.ready
    · rw [acceptIllegal_held hr] at hx
      cases hx
      rfl
    · rw [acceptIllegal_ready hr] at hx
      cases hx
      rfl

/-- If an engine step changes `RES`, then it ends an RDBTN. -/
theorem engineStep_res {s t : State} {d : Bool} (hb : s.busy = true) (h : engineStep d s = .next t)
    (hres : t.res ≠ s.res) :
    s.seq.ph = .stbRise ∧ s.ir = 0x6000 ∧ t.res = s.btn ∧ t.busy = false := by
  rcases engineStep_cases hb h with ⟨-, rfl⟩ | ⟨-, v, -, rfl⟩ | ⟨-, rfl⟩ | ⟨-, -, rfl⟩ | ⟨-, rfl⟩ |
    ⟨hp, rfl⟩
  case inr.inr.inr.inr.inr =>
    by_cases hrun : s.running = some .rdbtn
    · exact ⟨hp, word_of_decodeRequest_rdbtn (running_eq_some.mp hrun), by simp [hrun], rfl⟩
    · exact absurd (by simp [hrun]) hres
  all_goals exact absurd (by simp) hres

/-- Settles O51: of all a step can do without a reset, only an engine step and the acceptance of a word can
change `RES`. The invariant is not needed. -/
theorem onlyThreeRequestsWriteRes : Obligations.OnlyThreeRequestsWriteRes := by
  unfold Obligations.OnlyThreeRequestsWriteRes
  intro s t _ h hrst hres
  rcases step_cases h with ⟨hr, -⟩ | ⟨-, hb, -, hx⟩ | ⟨-, -, -, rfl⟩ | ⟨-, -, -, rfl⟩ |
    ⟨-, -, -, -, rfl⟩ | ⟨-, -, -, rfl⟩ | ⟨-, hready, -, w, ws, -, hx⟩
  case inl => simp [hr] at hrst
  case inr.inl =>
    have hend := engineStep_res (by simpa using hb) hx (by simpa using hres)
    exact .inr (.inr (by simpa using hend))
  case inr.inr.inr.inr.inr.inr =>
    rcases acceptWord_res hx (by simpa using hres) with hv | hc
    · exact .inl ⟨hready, hv⟩
    · exact .inr (.inl ⟨hready, hc⟩)
  all_goals exact absurd (by simp) hres

end Sys2Proof.Machine
end

section
/-! SUPPORT. The reset values and the status byte (10_state.md R23, R27). -/

namespace Sys2Proof.Machine

/-- An empty payload store holds 0x00 in every cell. -/
@[simp] theorem Memory.read_nil (j : Nat) : Memory.read [] j = 0x00 := rfl

/-- Settles O7: each item is read off the reset state, and a cell that nothing has written holds 0x00. -/
theorem resetValues : Obligations.ResetValues := by
  unfold Obligations.ResetValues
  exact ⟨rfl, rfl, rfl, rfl, rfl, rfl, rfl, rfl, rfl, rfl, rfl, rfl, rfl,
    fun i => Memory.read_nil i.toNat⟩

/-- Settles O41, by the four parts `STATUS` is joined from. -/
theorem statusBits : Obligations.StatusBits := by
  unfold Obligations.StatusBits State.status
  intro s
  generalize s.busy = b
  generalize s.cfg = c
  generalize s.flt.bits = f
  revert b c f
  decide

end Sys2Proof.Machine
end

section
/-! SUPPORT. The reception of one slot by 16 engine steps (40_transport.md R92; 20_memory.md R42). -/

namespace Sys2Proof.Machine

/-- A receive position takes a receive half-step. -/
theorem engineStep_rx {s : State} (d : Bool) (hp : s.seq.ph = .rx) (hix : s.seq.ix.toNat < 4) :
    engineStep d s = .next (s.rxHalfStep d) := by
  simp [engineStep, hp, Config.rxSlots, hix]

/-- A receive half-step changes the clock, the receiver, the position and the trace, and nothing else. -/
theorem rxHalfStep_eq (s : State) (d : Bool) :
    s.rxHalfStep d =
      { s with
        clk := oddHalf s.seq.hs
        acc := (s.rxHalfStep d).acc
        btn := (s.rxHalfStep d).btn
        seq := s.seqAfterRx
        trace := (s.rxHalfStep d).trace } := by
  unfold State.rxHalfStep
  split <;> simp_all [State.record]

/-- `ACC` after the first `n` bits of a slot whose data pin levels are `ds`. -/
def accAfter (acc : Byte) (ds : List Bool) : Nat → Byte
  | 0 => acc
  | n + 1 => rxShift Config.rxVariant (accAfter acc ds n) n (ds.getD (2 * n + 1) false)

/-- A bit shifted in becomes bit 0, and the others move up by one (R92). -/
theorem rxShift_getLsbD (acc : Byte) (k : Nat) (d : Bool) {i : Nat} (hi : i < 8) :
    (rxShift Config.rxVariant acc k d).getLsbD i = if i = 0 then d else acc.getLsbD (i - 1) := by
  show ((acc <<< 1) ||| (if d then (1 : Byte) else 0)).getLsbD i = _
  rcases Nat.eq_zero_or_pos i with rfl | hpos
  · cases d <;> simp
  · cases d <;> simp [hi, Nat.ne_of_gt hpos, -BitVec.getLsbD_eq_getElem]

/-- Of the bits drawn so far the last one stands at bit 0. -/
theorem accAfter_getLsbD (acc : Byte) (ds : List Bool) {n i : Nat} (hi : i < n) (hi8 : i < 8) :
    (accAfter acc ds n).getLsbD i = ds.getD (2 * (n - 1 - i) + 1) false := by
  induction n generalizing i with
  | zero => omega
  | succ n ih =>
    rw [accAfter, rxShift_getLsbD _ _ _ hi8]
    rcases Nat.eq_zero_or_pos i with rfl | hpos
    · simp
    · rw [if_neg (by omega), ih (by omega) (by omega), show n - 1 - (i - 1) = n + 1 - 1 - i by omega]

/-- Joining bit `j` to a byte sets that bit if it is 1, and no other. -/
theorem orBit_getLsbD (b : Byte) (d : Bool) (j : Nat) {i : Nat} (hi : i < 8) :
    (if d then b ||| ((1 : Byte) <<< j) else b).getLsbD i =
      (b.getLsbD i || (d && decide (i = j))) := by
  cases d
  · simp
  · rw [if_pos rfl, BitVec.getLsbD_or, show (1 : Byte) <<< j = BitVec.twoPow 8 j from rfl,
      BitVec.getLsbD_twoPow, Bool.true_and]
    by_cases hij : i = j
    · simp [← hij, hi]
    · simp [hij, Ne.symm hij]

/-- The k-th bit drawn stands at bit 7-k of the slot byte (R42). -/
theorem slotByte_getLsbD (ds : List Bool) {k : Nat} (hk : k < 8) :
    (slotByte ds).getLsbD (7 - k) = ds.getD (2 * k + 1) false := by
  simp only [slotByte, List.range, List.range.loop, List.foldl_cons, List.foldl_nil,
    orBit_getLsbD _ _ _ (show 7 - k < 8 by omega)]
  interval_cases k <;> simp

/-- After 8 bits nothing of the old accumulator is left. -/
theorem accAfter_eight (acc : Byte) (ds : List Bool) : accAfter acc ds 8 = slotByte ds := by
  refine BitVec.eq_of_getLsbD_eq fun i hi => ?_
  rw [accAfter_getLsbD acc ds hi hi, ← slotByte_getLsbD ds (by omega),
    show 7 - (8 - 1 - i) = i by omega]

/-- An odd half-step shifts a bit in, an even one leaves the accumulator (R92). -/
theorem accAfter_half (acc : Byte) (ds : List Bool) (h : Nat) :
    accAfter acc ds ((h + 1) / 2) =
      if h % 2 == 1 then rxShift Config.rxVariant (accAfter acc ds (h / 2)) (h / 2) (ds.getD h false)
      else accAfter acc ds (h / 2) := by
  rcases Nat.mod_two_eq_zero_or_one h with h2 | h2
  · simp [h2, show (h + 1) / 2 = h / 2 by omega]
  · rw [show (h + 1) / 2 = h / 2 + 1 by omega, accAfter, show 2 * (h / 2) + 1 = h by omega]
    simp [h2]

/-- The entry of half-step `h` of a slot (R92). -/
theorem take_rxEntries (dio : Bool) (ds : List Bool) {h : Nat} (hh : h < 16) :
    (rxEntries dio ds).take (h + 1) = (rxEntries dio ds).take h ++
      [⟨false, h % 2 == 1, false, dio, if h % 2 == 1 then some (ds.getD h false) else none⟩] := by
  rw [List.take_add_one]
  simp [rxEntries, hh]

/-- The state after the first `h` half-steps of a slot, before its last one. -/
def rxMid (s : State) (ds : List Bool) (h : Nat) : State :=
  { s with
    clk := h % 2 == 0
    acc := accAfter s.acc ds (h / 2)
    seq := ⟨.rx, s.seq.ix, BitVec.ofNat 4 h⟩
    trace := s.trace ++ (rxEntries s.dioOut ds).take h }

theorem rxMid_zero {s : State} (ds : List Bool) (hclk : s.clk = true)
    (hs : s.seq = ⟨.rx, s.seq.ix, 0⟩) : rxMid s ds 0 = s := by
  show ({ s with clk := true, seq := ⟨.rx, s.seq.ix, 0⟩, trace := s.trace ++ [] } : State) = s
  rw [List.append_nil, ← hs, ← hclk]

/-- Where the sequencer goes when a slot is drawn (R20). -/
def afterSlot (s : State) : Seq :=
  if s.seq.ix.toNat < 3 then ⟨.rx, s.seq.ix + 1, 0⟩ else ⟨.dirOut, 0, 0⟩

/-- The state when a slot is drawn. -/
def rxDone (s : State) (ds : List Bool) : State :=
  { s with
    clk := true
    acc := slotByte ds
    btn := s.btn ||| (slotByte ds >>> s.seq.ix.toNat)
    seq := afterSlot s
    trace := s.trace ++ rxEntries s.dioOut ds }

/-- A half-step of a slot takes the state one further, but for the position and the union. -/
theorem rxMid_half {s : State} (ds : List Bool) (hstb : s.stb = false) (hdir : s.dir = false)
    {h : Nat} (hh : h < 16) :
    (rxMid s ds h).rxHalfStep (ds.getD h false) =
      { rxMid s ds (h + 1) with
        btn := ((rxMid s ds h).rxHalfStep (ds.getD h false)).btn
        seq := (rxMid s ds h).seqAfterRx } := by
  obtain ⟨ho, hk, -⟩ := half_facts h hh
  have hclk : (h % 2 == 1) = ((h + 1) % 2 == 0) := by
    rw [Bool.eq_iff_iff, beq_iff_eq, beq_iff_eq]
    omega
  rw [rxHalfStep_eq, rxHalfStep_acc, rxHalfStep_trace]
  simp only [rxMid, ho, hk, accAfter_half, take_rxEntries _ _ hh, hstb, hdir, hclk,
    List.append_assoc]

/-- One half-step before the last takes the state one further. -/
theorem rxMid_step {s : State} (ds : List Bool) (hstb : s.stb = false) (hdir : s.dir = false)
    {h : Nat} (hh : h < 15) :
    (rxMid s ds h).rxHalfStep (ds.getD h false) = rxMid s ds (h + 1) := by
  obtain ⟨-, -, hlast⟩ := half_facts h (by omega)
  have hn : (rxMid s ds h).seq.hs ≠ 15 := hlast (by omega)
  have hseq : (rxMid s ds h).seqAfterRx = (rxMid s ds (h + 1)).seq := by
    rw [State.seqAfterRx, if_pos hn]
    simp [rxMid, BitVec.ofNat_add]
  rw [rxMid_half ds hstb hdir (by omega), hseq, rxHalfStep_btn, if_neg fun hhs => hn hhs.2]
  rfl

/-- The last half-step of a slot. -/
theorem rxMid_last {s : State} (ds : List Bool) (hstb : s.stb = false) (hdir : s.dir = false) :
    (rxMid s ds 15).rxHalfStep (ds.getD 15 false) = rxDone s ds := by
  have hseq : (rxMid s ds 15).seqAfterRx = afterSlot s := seqAfterRx_of_rx rfl
  have hacc : rxShift Config.rxVariant (accAfter s.acc ds 7) 7 (ds.getD 15 false) = slotByte ds :=
    accAfter_eight s.acc ds
  have hbtn : ((rxMid s ds 15).rxHalfStep (ds.getD 15 false)).btn =
      s.btn ||| (slotByte ds >>> s.seq.ix.toNat) := by
    rw [rxHalfStep_btn, show (rxMid s ds 15).seq.hs = 15 from rfl, if_pos (by decide), ← hacc]
    rfl
  rw [rxMid_half ds hstb hdir (by omega), hseq, hbtn]
  simp [rxMid, rxDone, accAfter_eight, List.take_of_length_le, rxEntries]

/-- The first 15 half-steps of a slot. -/
theorem engineRun_rxMid {s : State} {ds : List Bool} (hseq : s.seq = ⟨.rx, s.seq.ix, 0⟩)
    (hix : s.seq.ix.toNat < 4) (hstb : s.stb = false) (hclk : s.clk = true) (hdir : s.dir = false)
    (hl : ds.length = 16) {h : Nat} (hh : h ≤ 15) :
    engineRun (ds.take h) s = .next (rxMid s ds h) := by
  induction h with
  | zero => rw [rxMid_zero ds hclk hseq]; rfl
  | succ h ih =>
    have htake : ds.take (h + 1) = ds.take h ++ [ds.getD h false] := by
      rw [List.take_add_one, List.getD_eq_getElem _ _ (by omega), List.getElem?_eq_getElem (by omega)]
      rfl
    rw [htake, engineRun_append, ih (by omega), andThen_next, engineRun,
      engineStep_rx (s := rxMid s ds h) _ rfl hix, rxMid_step ds hstb hdir (by omega)]
    rfl

/-- RxSlot: 16 engine steps draw the slot at the sequencer's position, whatever `ACC` held. -/
theorem engineRun_rxSlot {s : State} {ds : List Bool} (hseq : s.seq = ⟨.rx, s.seq.ix, 0⟩)
    (hix : s.seq.ix.toNat < 4) (hstb : s.stb = false) (hclk : s.clk = true) (hdir : s.dir = false)
    (hl : ds.length = 16) : engineRun ds s = .next (rxDone s ds) := by
  have hdrop : ds.drop 15 = [ds.getD 15 false] := by
    rw [List.drop_eq_getElem_cons (by omega), List.drop_of_length_le (by omega),
      List.getD_eq_getElem _ _ (by omega)]
  rw [engineRun_split 15, engineRun_rxMid hseq hix hstb hclk hdir hl le_rfl, andThen_next, hdrop,
    engineRun, engineStep_rx (s := rxMid s ds 15) _ rfl hix, rxMid_last ds hstb hdir]
  rfl

/-- Settles O27: the invariant gives the levels of the lines before a slot, and the slot byte holds the
first bit drawn at bit 7. -/
theorem slotFirstBitIsTopBit : Obligations.SlotFirstBitIsTopBit := by
  unfold Obligations.SlotFirstBitIsTopBit
  intro s ds hinv hp hhs hl
  have hphase := hinv.phase
  simp only [State.phaseOk, hp, hhs] at hphase
  obtain ⟨-, hix, hstb, hclk, hdir⟩ := hphase
  have hseq : s.seq = ⟨.rx, s.seq.ix, 0⟩ := by rw [← hp, ← hhs]
  exact ⟨rxDone s ds, engineRun_rxSlot hseq hix hstb hclk hdir hl, fun _ => slotByte_getLsbD ds, rfl,
    rfl, rfl, rfl, rfl⟩

end Sys2Proof.Machine
end

section
/-! SUPPORT. The opcode map by mask and match (30_encoding.md R60, R62, R63). -/

namespace Sys2Proof

/-- A word is decoded to a request exactly when it is the word of that request. -/
theorem decodeRequest_eq_ok_iff {w : Word} {i : Instr} :
    decodeRequest w = .ok i ↔ i.wellFormed = true ∧ encode i = .request w :=
  ⟨encode_of_decodeRequest, fun ⟨hwf, he⟩ => decodeRequest_of_encode hwf he⟩

/-- A word is put together from three values exactly when they are its fields. -/
theorem requestWord_eq_iff {op x : Nibble} {imm : Byte} {w : Word} :
    requestWord op x imm = w ↔ opField w = op ∧ xField w = x ∧ immField w = imm := by
  constructor
  · rintro rfl
    simp
  · rintro ⟨rfl, rfl, rfl⟩
    exact requestWord_fields w

/-- The mask of format XI keeps the op code and nothing else. -/
theorem and_F000 (w : Word) : w &&& 0xF000 = requestWord (opField w) 0 0 := by
  refine BitVec.eq_of_getLsbD_eq fun i hi => ?_
  interval_cases i <;> simp [requestWord, opField]

/-- The mask of format I keeps the op code and the field above the operand byte. -/
theorem and_FF00 (w : Word) : w &&& 0xFF00 = requestWord (opField w) (xField w) 0 := by
  refine BitVec.eq_of_getLsbD_eq fun i hi => ?_
  interval_cases i <;> simp [requestWord, opField, xField]

/-- A row with two operands is selected by the op code. -/
theorem requestWord_eq_iff_and_F000 {op x : Nibble} {imm : Byte} {w : Word} :
    requestWord op x imm = w ↔
      w &&& 0xF000 = requestWord op 0 0 ∧ x = xField w ∧ imm = immField w := by
  rw [requestWord_eq_iff, and_F000, requestWord_eq_iff]
  simp [eq_comm]

/-- A row with one operand is selected by the op code and zeros above the operand. -/
theorem requestWord_eq_iff_and_FF00 {op : Nibble} {imm : Byte} {w : Word} :
    requestWord op 0 imm = w ↔ w &&& 0xFF00 = requestWord op 0 0 ∧ imm = immField w := by
  rw [requestWord_eq_iff, and_FF00, requestWord_eq_iff]
  simp [eq_comm, and_assoc]

/-- A row without operands is selected by the whole word. -/
theorem requestWord_eq_iff_and_FFFF {op : Nibble} {w : Word} :
    requestWord op 0 0 = w ↔ w &&& 0xFFFF = requestWord op 0 0 := by
  rw [show w &&& 0xFFFF = w from BitVec.and_allOnes, eq_comm]

end Sys2Proof

namespace Sys2Proof.Machine

theorem wireByte_of_encode_request {i : Instr} {w : Word} (h : encode i = .request w) :
    wireByte i = none := by
  simp [wireByte, h]

/-- Settles O3: a word selects a row exactly when it is the row's word with its own fields as operands. -/
theorem requestRowsSelectByMask : Obligations.RequestRowsSelectByMask := by
  unfold Obligations.RequestRowsSelectByMask
  intro w
  simp only [decodeRequest_eq_ok_iff]
  refine ⟨?init, fun c => ?scmd, fun i v => ?ldp, fun a n => ?sbulk, fun a v => ?swr1, ?rdbtn,
    fun v => ?enc, fun c => ?smp, fun i ⟨_, he⟩ => wireByte_of_encode_request he⟩
  all_goals simp only [encode, Instr.wellFormed, true_and, Code.request.injEq, decide_eq_true_eq]
  case init => exact requestWord_eq_iff_and_FFFF
  case rdbtn => exact requestWord_eq_iff_and_FFFF
  case scmd => exact requestWord_eq_iff_and_FF00
  case enc => exact requestWord_eq_iff_and_FF00
  case smp => exact requestWord_eq_iff_and_FF00
  case ldp => exact requestWord_eq_iff_and_F000
  case swr1 => exact requestWord_eq_iff_and_F000
  case sbulk => exact (and_congr_right' requestWord_eq_iff_and_F000).trans and_left_comm

end Sys2Proof.Machine
end

section
/-! SUPPORT. The words that the decoder rejects (30_encoding.md R64). -/

namespace Sys2Proof

/-- The 12 bits below the op code are zero exactly when both of their fields are. -/
theorem low_eq_zero_iff (w : Word) :
    (w.extractLsb' 0 12).toNat = 0 ↔ xField w = 0 ∧ immField w = 0 := by
  simp only [← BitVec.toNat_inj, xField, immField, BitVec.extractLsb'_toNat, BitVec.ofNat_eq_ofNat,
    BitVec.toNat_zero]
  omega

theorem xField_eq_zero_iff (w : Word) : xField w = 0 ↔ (w.extractLsb' 8 4).toNat = 0 :=
  BitVec.toNat_inj.symm

/-- R64's conditions, by the op code: a guarded row rejects the words that fail its guard. -/
theorem decodeRequest_error_iff (w : Word) :
    (∃ e, decodeRequest w = .error e) ↔
      (opField w).toNat = 0 ∨ 9 ≤ (opField w).toNat ∨
        (((opField w).toNat = 1 ∨ (opField w).toNat = 6) ∧ ¬(xField w = 0 ∧ immField w = 0)) ∨
        (((opField w).toNat = 2 ∨ (opField w).toNat = 7 ∨ (opField w).toNat = 8) ∧ ¬xField w = 0) ∨
        ((opField w).toNat = 4 ∧ 16 < (immField w).toNat) := by
  unfold decodeRequest
  split
  case h_9 =>
    have hop : (opField w).toNat = 0 ∨ 9 ≤ (opField w).toNat := by
      simp only [imp_false] at *
      omega
    exact iff_of_true ⟨_, rfl⟩ (or_assoc.mp (.inl hop))
  all_goals
    rename_i hop
    simp [hop, ite_eq_iff]

end Sys2Proof

namespace Sys2Proof.Machine

theorem acceptWord_of_error {w : Word} {s : State} {e : Illegal} (h : decodeRequest w = .error e) :
    acceptWord w s = s.acceptIllegal w := by
  simp [acceptWord, h]

/-- Settles O4: the decoder's guards are R64's conditions, and a ready block raises a rejected word. -/
theorem illegalWordsRaiseIllegalRequest : Obligations.IllegalWordsRaiseIllegalRequest := by
  unfold Obligations.IllegalWordsRaiseIllegalRequest
  refine ⟨fun w => ?_, fun w s hr ⟨e, he⟩ => ?_, ⟨_, rfl⟩, ⟨_, rfl⟩⟩
  · rw [decodeRequest_error_iff, ← low_eq_zero_iff, xField_eq_zero_iff]
    rfl
  · rw [acceptWord_of_error he, acceptIllegal_ready hr]
    rfl

end Sys2Proof.Machine
end

section
/-! SUPPORT. Requests that complete when they are accepted, and the rest that a step leaves to an open
transaction (40_transport.md R84, R85, R93). -/

namespace Sys2Proof.Machine

/-- Settles O10: a ready block latches the word and stores the cell, by the laws of the payload store. -/
theorem ldpStoresOneCell : Obligations.LdpStoresOneCell := by
  unfold Obligations.LdpStoresOneCell
  intro i v s hr hwf
  have hx : exec (.ldp i v) s = .next ((s.latch (requestWord 3 i v)).storeCell i v) :=
    accept_ready (b := false) (f := fun t => t.storeCell i v) hr nofun
  exact ⟨_, hx, Memory.read_write_same s.pay i.toNat v hwf.1,
    fun j hj => Memory.read_write_other s.pay i.toNat j v hj, rfl⟩

/-- Settles O9: a ready block latches 0x1000 and takes the configuration step. -/
theorem initConfiguresLines : Obligations.InitConfiguresLines := by
  unfold Obligations.InitConfiguresLines
  intro s hr
  have hx : exec .init s = .next (s.latch (requestWord 1 0 0)).configureLines :=
    accept_ready hr nofun
  exact hx

/-- An engine step writes the lines, the receiver, `RES`, the position, `BUSY` and the trace, and nothing
else (R86, R87, R92). -/
theorem engineStep_frame {s t : State} {d : Bool} (hb : s.busy = true)
    (h : engineStep d s = .next t) :
    t = { s with
      res := t.res, acc := t.acc, btn := t.btn, stb := t.stb, clk := t.clk, dioOut := t.dioOut
      dir := t.dir, seq := t.seq, busy := t.busy, trace := t.trace } := by
  rcases engineStep_cases hb h with ⟨-, rfl⟩ | ⟨-, v, -, rfl⟩ | ⟨-, rfl⟩ | ⟨-, -, rfl⟩ | ⟨-, rfl⟩ |
    ⟨-, rfl⟩
  case inr.inl =>
    unfold State.txHalfStep
    split <;> rfl
  case inr.inr.inr.inl =>
    unfold State.rxHalfStep
    split <;> rfl
  all_goals rfl

/-- A step of a busy block without a reset is an engine step, or the block stands (R21, R81, R184). -/
theorem step_busy {s t : State} (hb : s.busy = true) (hrst : s.edgeInput.rst = false)
    (h : step s = .next t) :
    engineStep s.edgeInput.dio (s.passEdge.withdraw s.edgeInput) = .next t ∨
      t = s.passEdge.withdraw s.edgeInput := by
  have hready : s.ready = false := by simp [State.ready, hb]
  rcases step_cases h with ⟨hr, -⟩ | ⟨-, -, -, hx⟩ | ⟨-, -, -, ht⟩ | ⟨-, -, hb', -⟩ |
    ⟨-, hr, -⟩ | ⟨-, hr, -⟩ | ⟨-, hr, -⟩
  case inr.inl => exact .inl hx
  case inr.inr.inl => exact .inr ht
  all_goals simp_all

/-- Settles O48: neither an engine step nor standing still touches what only an acceptance writes. The
invariant is not needed. -/
theorem openTransactionIsNotInterrupted : Obligations.OpenTransactionIsNotInterrupted := by
  unfold Obligations.OpenTransactionIsNotInterrupted
  intro s t _ hb hrst h
  rcases step_busy hb hrst h with hx | rfl
  · rw [engineStep_frame (by simpa using hb) hx, passEdge_withdraw_eq]
    exact ⟨rfl, rfl, rfl, rfl, rfl, rfl, rfl⟩
  · rw [passEdge_withdraw_eq]
    exact ⟨rfl, rfl, rfl, rfl, rfl, rfl, rfl⟩

end Sys2Proof.Machine
end

section
/-! SUPPORT. The transactions of SCMD and RDBTN, put together from their framing steps, their byte and their
slots (40_transport.md R87, R88, R91, R92). -/

namespace Sys2Proof.Machine

/-! ### Framing steps -/

/-- A ready block stands at the idle position with its lines at their idle levels (R20, R80). -/
theorem State.Inv.idle_of_ready {s : State} (hinv : s.Inv) (hr : s.ready = true) :
    s.busy = false ∧ s.seq = ⟨.idle, 0, 0⟩ ∧ s.stb = true ∧ s.clk = true ∧ s.dir = true := by
  obtain ⟨hb, -⟩ := (ready_iff s).mp hr
  have hp : s.seq.ph = .idle := by
    by_contra hne
    exact absurd (hinv.busyIff.mpr hne) (by simp [hb])
  exact ⟨hb, by simpa only [State.phaseOk, hp] using hinv.phase⟩

/-- A run whose first engine step is known. -/
theorem engineRun_cons {d : Bool} {ds : List Bool} {s t : State} (h : engineStep d s = .next t) :
    engineRun (d :: ds) s = engineRun ds t := by
  rw [engineRun, h, andThen_next]

theorem engineStep_stbFall {s : State} (d : Bool) (h : s.seq.ph = .stbFall) :
    engineStep d s = .next s.stbFallStep := by
  simp [engineStep, h]

theorem engineStep_dirIn {s : State} (d : Bool) (h : s.seq.ph = .dirIn) :
    engineStep d s = .next s.dirInStep := by
  simp [engineStep, h]

theorem engineStep_dirOut {s : State} (d : Bool) (h : s.seq.ph = .dirOut) :
    engineStep d s = .next s.dirOutStep := by
  simp [engineStep, h]

/-- StbRise with the request known: RDBTN hands the union to `RES` (R87, R91). -/
theorem engineStep_stbRise {s : State} {i : Instr} (d : Bool) (h : s.seq.ph = .stbRise)
    (hrun : s.running = some i) :
    engineStep d s = .next
      { s with
        stb := true, busy := false, seq := ⟨.idle, 0, 0⟩
        res := if i = .rdbtn then s.btn else s.res
        trace := s.trace ++ [⟨true, s.clk, s.dir, s.dioOut, none⟩] } := by
  simp [engineStep, h, State.stbRiseStep, State.record, hrun]

/-! ### A transaction of one byte -/

/-- The head of every transaction: the strobe falls and the first byte goes out (R88 to R91). -/
theorem engineRun_firstByte {s : State} {i : Instr} {it : TxItem} (hb : s.busy = true)
    (hp : s.seq.ph = .stbFall) (hdir : s.dir = true) (hrun : s.running = some i)
    (hit : txItem s.pay i 0 = some it) {ds : List Bool} (hl : ds.length = 17) :
    engineRun ds s = .next (txDone s.stbFallStep (itemByte it)) := by
  obtain ⟨d, ds, rfl⟩ := List.exists_cons_of_length_eq_add_one hl
  have hcur : s.stbFallStep.currentItem = some it := by
    rw [State.currentItem, show s.stbFallStep.running = some i from hrun]
    exact hit
  rw [engineRun_cons (engineStep_stbFall d hp)]
  exact engineRun_txByte (s := s.stbFallStep) hb rfl hcur rfl hdir ds (by simpa using hl)

/-- After the only byte of a transaction comes StbRise, or DirIn if it reads (R20). -/
theorem afterByte_single {s : State} {i : Instr} (hrun : s.running = some i) (hn : nTx i = 1) :
    afterByte s = if i = .rdbtn then ⟨.dirIn, 0, 0⟩ else ⟨.stbRise, 0, 0⟩ := by
  simp [afterByte, runningTx_of_running hrun, hrun, hn]

/-- A transaction of one byte, up to the step after that byte: 17 engine steps from its acceptance. -/
theorem engineRun_singleByte {s : State} {i : Instr} {w : Word} {it : TxItem}
    (hwf : i.wellFormed = true) (he : encode i = .request w) (hn : nTx i = 1)
    (hit : txItem s.pay i 0 = some it) (hclk : s.clk = true) (hdir : s.dir = true) {ds : List Bool}
    (hl : ds.length = 17) :
    engineRun ds (s.latch w).startEngine = .next
      { s with
        ir := w, busy := true, stb := false, dioOut := (itemByte it).getLsbD 7
        seq := if i = .rdbtn then ⟨.dirIn, 0, 0⟩ else ⟨.stbRise, 0, 0⟩
        trace := s.trace ++ (⟨false, true, true, s.dioOut, none⟩ :: txEntries (itemByte it)) } := by
  have hrun : (s.latch w).startEngine.running = some i := running_of_ir hwf he rfl
  rw [engineRun_firstByte (s := (s.latch w).startEngine) rfl rfl hdir hrun hit hl, txDone,
    afterByte_single (s := (s.latch w).startEngine.stbFallStep) hrun hn]
  simp [State.startEngine, State.latch, State.stbFallStep, State.record, hclk, hdir]

/-- The acceptance of SCMD by a ready configured block (R88). -/
theorem exec_scmd {s : State} (c : Byte) (hr : s.ready = true) (hc : s.cfg = true) :
    exec (.scmd c) s = .next (s.latch (0x2000 ||| c.setWidth 16)).startEngine := by
  rw [show (0x2000 ||| c.setWidth 16 : Word) = requestWord 2 0 c from (requestWord_zero_x 2 c).symm]
  exact accept_ready hr fun _ => hc

/-- Settles O29: acceptance, the strobe's fall with the byte `c`, and StbRise. -/
theorem scmdTransaction : Obligations.ScmdTransaction := by
  unfold Obligations.ScmdTransaction
  intro c s ds hinv hr hc hl
  obtain ⟨hb, hseq, hstb, hclk, hdir⟩ := hinv.idle_of_ready hr
  have he : encode (.scmd c) = .request (0x2000 ||| c.setWidth 16) :=
    congrArg Code.request (requestWord_zero_x 2 c)
  obtain ⟨d, hd⟩ := List.length_eq_one_iff.mp (show (ds.drop 17).length = 1 by simp [hl])
  rw [exec_scmd c hr hc, andThen_next, engineRun_split 17,
    engineRun_singleByte rfl he rfl rfl hclk hdir (by simp [hl]), andThen_next, hd,
    engineRun_cons (engineStep_stbRise d rfl (running_of_ir rfl he rfl)), itemByte_commandItem]
  simp [engineRun, hb, hseq, hstb, hclk, hdir]

/-! ### The slots of a button read -/

/-- The levels of the data pin in slot `k` of a list that starts with the first slot. -/
def slotLevels (ds : List Bool) (k : Nat) : List Bool := (ds.drop (16 * k)).take 16

/-- What a button read answers: the bytes of the four slots joined, slot k's shifted right by k (R91). -/
def slotUnion (ds : List Bool) : Byte :=
  slotByte (slotLevels ds 0) ||| (slotByte (slotLevels ds 1) >>> 1) |||
    (slotByte (slotLevels ds 2) >>> 2) ||| (slotByte (slotLevels ds 3) >>> 3)

/-- The state after the first `n` slots drawn from the levels `ds`. -/
def rxSlots (s : State) (ds : List Bool) : Nat → State
  | 0 => s
  | n + 1 => rxDone (rxSlots s ds n) (slotLevels ds n)

/-- Between two slots the sequencer stands at the next one, with the lines as they were before the first. -/
theorem rxSlots_position {s : State} (ds : List Bool) (hseq : s.seq = ⟨.rx, 0, 0⟩)
    (hstb : s.stb = false) (hclk : s.clk = true) (hdir : s.dir = false) {n : Nat} (hn : n < 4) :
    (rxSlots s ds n).seq = ⟨.rx, BitVec.ofNat 5 n, 0⟩ ∧ (rxSlots s ds n).stb = false ∧
      (rxSlots s ds n).clk = true ∧ (rxSlots s ds n).dir = false := by
  induction n with
  | zero => exact ⟨hseq, hstb, hclk, hdir⟩
  | succ n ih =>
    obtain ⟨ihseq, ihstb, -, ihdir⟩ := ih (by omega)
    refine ⟨?_, ihstb, rfl, ihdir⟩
    show afterSlot (rxSlots s ds n) = _
    rw [afterSlot, ihseq, if_pos (by simp; omega), BitVec.ofNat_add]
    rfl

/-- Up to four slots, 16 engine steps each. -/
theorem engineRun_rxSlots {s : State} {ds : List Bool} (hseq : s.seq = ⟨.rx, 0, 0⟩)
    (hstb : s.stb = false) (hclk : s.clk = true) (hdir : s.dir = false) {n : Nat} (hn : n ≤ 4)
    (hl : 16 * n ≤ ds.length) : engineRun (ds.take (16 * n)) s = .next (rxSlots s ds n) := by
  induction n with
  | zero => rfl
  | succ n ih =>
    obtain ⟨hseq', hstb', hclk', hdir'⟩ := rxSlots_position ds hseq hstb hclk hdir (show n < 4 by omega)
    have hslot : engineRun (slotLevels ds n) (rxSlots s ds n) = .next (rxSlots s ds (n + 1)) :=
      engineRun_rxSlot (by simp [hseq']) (by simp [hseq']; omega) hstb' hclk' hdir'
        (by simp [slotLevels]; omega)
    rw [Nat.mul_succ, List.take_add, engineRun_append, ih (by omega) (by omega), andThen_next]
    exact hslot

/-- The four slots of a button read: the receiver, the position and the trace are written, and nothing
else (R92). -/
theorem rxSlots_four {s : State} (ds : List Bool) (hseq : s.seq = ⟨.rx, 0, 0⟩)
    (hclk : s.clk = true) :
    rxSlots s ds 4 =
      { s with
        acc := slotByte (slotLevels ds 3)
        btn := s.btn ||| slotUnion ds
        seq := ⟨.dirOut, 0, 0⟩
        trace := s.trace ++ (List.range 4).flatMap fun k => rxEntries s.dioOut (slotLevels ds k) } := by
  simp [rxSlots, rxDone, afterSlot, slotUnion, hseq, hclk, List.range, List.range.loop,
    BitVec.or_assoc]

/-! ### The button read -/

/-- The acceptance of RDBTN by a ready configured block (R91). -/
theorem exec_rdbtn {s : State} (hr : s.ready = true) (hc : s.cfg = true) :
    exec .rdbtn s = .next (s.clearReceiver.latch 0x6000).startEngine :=
  accept_ready (f := fun t => t.clearReceiver.startEngine) hr fun _ => hc

/-- The 67 engine steps of a button read from DirIn on: DirIn, four slots, DirOut and StbRise (R91). -/
theorem engineRun_read {s : State} (hp : s.seq.ph = .dirIn) (hrun : s.running = some .rdbtn)
    (hstb : s.stb = false) (hclk : s.clk = true) (d : Bool) {ds : List Bool} (hl : ds.length = 66) :
    engineRun (d :: ds) s = .next
      { s with
        res := s.btn ||| slotUnion ds
        acc := slotByte (slotLevels ds 3)
        btn := s.btn ||| slotUnion ds
        stb := true, dir := true, busy := false, seq := ⟨.idle, 0, 0⟩
        trace := s.trace ++
          (⟨false, true, false, s.dioOut, none⟩ ::
            ((List.range 4).flatMap fun k => rxEntries s.dioOut (slotLevels ds k))) ++
          [⟨false, true, true, s.dioOut, none⟩, ⟨true, true, true, s.dioOut, none⟩] } := by
  obtain ⟨d', d'', hd⟩ := List.length_eq_two.mp (show (ds.drop (16 * 4)).length = 2 by simp [hl])
  rw [engineRun_cons (engineStep_dirIn d hp), engineRun_split (16 * 4),
    engineRun_rxSlots (s := s.dirInStep) rfl hstb hclk rfl le_rfl (by omega), andThen_next, hd,
    rxSlots_four (s := s.dirInStep) ds rfl hclk, engineRun_cons (engineStep_dirOut d' rfl),
    engineRun_cons (engineStep_stbRise (i := .rdbtn) d'' rfl ?running)]
  case running => exact hrun
  simp [engineRun, State.dirInStep, State.dirOutStep, State.record, hstb, hclk]

/-- Settles O32: acceptance, the strobe's fall with the byte 0x42, and the read from DirIn on, which meets an
empty union. -/
theorem buttonReadTransaction : Obligations.ButtonReadTransaction := by
  unfold Obligations.ButtonReadTransaction
  intro s ds hinv hr hc hl
  obtain ⟨hb, hseq, hstb, hclk, hdir⟩ := hinv.idle_of_ready hr
  have hd : ds.drop 17 = ds[17] :: ds.drop 18 := List.drop_eq_getElem_cons (by omega)
  have hslot : ∀ k, (ds.drop (18 + 16 * k)).take 16 = slotLevels (ds.drop 18) k := fun k => by
    rw [slotLevels, List.drop_drop]
  have he : encode .rdbtn = .request 0x6000 := rfl
  have hbyte : itemByte (.command .wRead) = 0x42 := rfl
  simp only [hslot]
  rw [exec_rdbtn hr hc, andThen_next, engineRun_split 17,
    engineRun_singleByte (s := s.clearReceiver) rfl he rfl rfl hclk hdir (by simp [hl]),
    andThen_next, hd, hbyte,
    engineRun_read rfl (running_of_ir rfl he rfl) rfl ?clk _ (by simp [hl])]
  case clk => exact hclk
  simp [State.clearReceiver, slotUnion, hb, hseq, hstb, hclk, hdir]

end Sys2Proof.Machine
end

section
/-! SUPPORT. What ENC answers for a digit and for a digit with its point (41_segment_encoder.md R112, R113). -/

namespace Sys2Proof.Machine

/-- The operand of a digit is the digit (R7). -/
theorem sext8_digit (d : Nibble) : sext8 (d.setWidth 8) = d.toNat := by
  rw [sext8, BitVec.toInt_setWidth, Int.bmod_eq_of_le] <;> omega

/-- The operand that asks for a digit with its point is the digit plus 16, which is still not negative. -/
theorem sext8_digit_add_16 (d : Nibble) : sext8 (d.setWidth 8 + 16) = d.toNat + 16 := by
  have hint := sext8_digit d
  rw [sext8] at hint ⊢
  rw [BitVec.toInt_add, hint, show (16 : Byte).toInt = 16 from rfl, Int.bmod_eq_of_le] <;> omega

/-- Operands 0 to 15 are encoded by the table (R112). -/
theorem segEncode_digit (d : Nibble) : segEncode (d.setWidth 8) = segByte d := by
  rw [segEncode, sext8_digit, if_pos (by omega), BitVec.ofInt_natCast, BitVec.ofNat_toNat,
    BitVec.setWidth_eq]

/-- Operands 16 to 31 are encoded by the table with the point added (R112). -/
theorem segEncode_digit_add_16 (d : Nibble) :
    segEncode (d.setWidth 8 + 16) = segByte d ||| 0x80 := by
  rw [segEncode, sext8_digit_add_16, if_neg (by omega), if_pos (by omega), Int.add_sub_cancel,
    BitVec.ofInt_natCast, BitVec.ofNat_toNat, BitVec.setWidth_eq]

/-- The point is clear in every byte of the table (R110). -/
theorem segByte_point_clear : ∀ d : Nibble, (segByte d).getLsbD 7 = false := by decide

/-- Adding the point to a byte that has none changes bit 7 only. -/
theorem or_point_xor_self {b : Byte} (h : b.getLsbD 7 = false) : (b ||| 0x80) ^^^ b = 0x80 := by
  rw [show (0x80 : Byte) = BitVec.twoPow 8 7 from rfl]
  apply BitVec.eq_of_getLsbD_eq
  intro i hi
  rw [BitVec.getLsbD_xor, BitVec.getLsbD_or, BitVec.getLsbD_twoPow]
  by_cases hbit : 7 = i
  · subst hbit
    rw [h]
    rfl
  · simp [hbit]

/-- A ready block latches the word of ENC and answers the encoded operand (R112). -/
theorem exec_enc {s : State} (hr : s.ready = true) (v : Byte) :
    exec (.enc v) s = .next ((s.latch (requestWord 7 0 v)).setRes (segEncode v)) :=
  accept_ready (b := false) (f := fun t => t.setRes (segEncode v)) hr nofun

/-- Settles O12: ENC answers the encoding of its operand alone, and adding 16 to a digit adds the point. -/
theorem encPointLaw : Obligations.EncPointLaw := by
  unfold Obligations.EncPointLaw
  constructor
  · intro d s hr
    have hclear := segByte_point_clear d
    refine ⟨_, _, exec_enc hr _, exec_enc hr _, ?_⟩
    rw [setRes_res, setRes_res, segEncode_digit, segEncode_digit_add_16]
    exact ⟨rfl, hclear, rfl, or_point_xor_self hclear⟩
  · intro v s u hs hu
    exact ⟨_, _, exec_enc hs v, exec_enc hu v, rfl⟩

end Sys2Proof.Machine
end

section
/-! SUPPORT. The release-edge mask, and what SMP answers (42_button_edge.md R121, R122, R125). -/

namespace Sys2Proof.Machine

/-- What changed and is 0 now is what was 1 and is 0 now (R122). -/
theorem releasedMask_eq_and_not (prev curr : Byte) : releasedMask prev curr = prev &&& ~~~curr := by
  apply BitVec.eq_of_getElem_eq
  intro i hi
  simp only [releasedMask, BitVec.getElem_and, BitVec.getElem_xor, BitVec.getElem_not]
  cases prev[i] <;> cases curr[i] <;> rfl

/-- Both operands of R122's second formula may be swapped. -/
theorem releasedMask_eq_not_and_xor (prev curr : Byte) :
    releasedMask prev curr = ~~~curr &&& (prev ^^^ curr) := by
  rw [releasedMask, BitVec.and_comm, BitVec.xor_comm]

/-- A bit is reported when it was pressed and is no longer (R121). -/
theorem releasedMask_getLsbD (prev curr : Byte) {j : Nat} (hj : j < 8) :
    (releasedMask prev curr).getLsbD j = (prev.getLsbD j && !curr.getLsbD j) := by
  rw [releasedMask_eq_and_not, BitVec.getLsbD_and, BitVec.getLsbD_not, decide_eq_true hj,
    Bool.true_and]

/-- Nothing is released where nothing was pressed (R125). -/
theorem releasedMask_zero_left (curr : Byte) : releasedMask 0x00 curr = 0x00 :=
  (releasedMask_eq_and_not 0x00 curr).trans BitVec.zero_and

/-- A ready block latches the word of SMP and takes the sample (R121). -/
theorem exec_smp {s : State} (hr : s.ready = true) (c : Byte) :
    exec (.smp c) s = .next ((s.latch (0x8000 ||| c.setWidth 16)).sample c) := by
  rw [show (0x8000 ||| c.setWidth 16 : Word) = requestWord 8 0 c from (requestWord_zero_x 8 c).symm]
  exact accept_ready (b := false) (f := fun t => t.sample c) hr nofun

/-- Settles O14: the sample writes the mask of the old `LAST`, which the three formulas describe. -/
theorem smpReportsReleaseEdges : Obligations.SmpReportsReleaseEdges := by
  unfold Obligations.SmpReportsReleaseEdges
  intro c s hr
  exact ⟨_, exec_smp hr c, rfl, rfl, releasedMask_eq_not_and_xor s.last c,
    releasedMask_eq_and_not s.last c, fun _ hj => releasedMask_getLsbD s.last c hj⟩

/-- Settles O16: the reset `LAST` is 0x00, against which the mask is empty. -/
theorem firstSampleReportsNothing : Obligations.FirstSampleReportsNothing := by
  unfold Obligations.FirstSampleReportsNothing
  intro c s hr hl
  have hlast : s.last = 0x00 := hl
  refine ⟨_, exec_smp hr c, ?_, rfl⟩
  rw [sample_res, latch_last, hlast, releasedMask_zero_left]

end Sys2Proof.Machine
end

section
/-! SUPPORT. A list of cells written one after another, and the LED cells of SETLEDS (43_host_sequences.md
R134). -/

namespace Sys2Proof.Machine

section WriteEach

variable {cell : Nat → Nat} {val : Nat → Byte}

/-- Cells that no write names read as before. -/
theorem Memory.read_foldl_write_other {l : List Nat} {j : Nat} (hj : j ∉ l.map cell)
    (m : List Host.Cell) :
    Memory.read (l.foldl (fun c i => Memory.write c (cell i) (val i)) m) j = Memory.read m j := by
  induction l generalizing m with
  | nil => rfl
  | cons a l ih =>
    obtain ⟨ha, hl⟩ := not_or.mp (List.mem_cons.not.mp hj)
    rw [List.foldl_cons, ih hl, Memory.read_write_other _ _ _ _ ha]

/-- Where the writes name different cells, each cell reads what was written to it. -/
theorem Memory.read_foldl_write_same {l : List Nat} (hcell : ∀ i ∈ l, cell i < Config.nCells)
    (hdiff : (l.map cell).Nodup) {i : Nat} (hi : i ∈ l) {m : List Host.Cell} (hm : Memory.wf m) :
    Memory.read (l.foldl (fun c i => Memory.write c (cell i) (val i)) m) (cell i) = val i := by
  induction l generalizing m with
  | nil => cases hi
  | cons a l ih =>
    obtain ⟨ha, hl⟩ := List.nodup_cons.mp hdiff
    rw [List.foldl_cons]
    rcases List.mem_cons.mp hi with rfl | hi
    · rw [Memory.read_foldl_write_other ha, Memory.read_write_same _ _ _ hm.1]
    · exact ih (fun k hk => hcell k (List.mem_cons_of_mem a hk)) hl hi
        (Memory.wf_write _ (hcell a List.mem_cons_self) hm)

end WriteEach

/-- The LED cells are cells of the buffer. -/
theorem ledCell_lt : ∀ i ∈ List.range 8, ledCell i < Config.nCells := by decide

/-- Different indicator bits have different cells. -/
theorem ledCells_nodup : ((List.range 8).map ledCell).Nodup := by decide

/-- An even cell is no LED cell. -/
theorem even_not_mem_ledCells {j : Nat} (hj : j % 2 = 0) : j ∉ (List.range 8).map ledCell := by
  intro h
  obtain ⟨i, -, rfl⟩ := List.mem_map.mp h
  rw [ledCell] at hj
  omega

/-- SETLEDS writes the LED cells one after another and no other cell (R134). -/
theorem Driver.setLeds_db (d : Driver) (m : Byte) :
    (d.setLeds m).db = (List.range 8).foldl
      (fun c i => Memory.write c (ledCell i) (if m.getLsbD i then 0x01 else 0x00)) d.db := rfl

/-- Settles O56: the eight writes name different cells, all of them odd. -/
theorem setLedsReversesBits : Obligations.SetLedsReversesBits := by
  unfold Obligations.SetLedsReversesBits
  intro d m hwf
  rw [Driver.setLeds_db]
  exact ⟨fun i hi => Memory.read_foldl_write_same ledCell_lt ledCells_nodup (List.mem_range.mpr hi) hwf,
    fun j hj => Memory.read_foldl_write_other (even_not_mem_ledCells hj) d.db⟩

end Sys2Proof.Machine
end

section
/-! SUPPORT. A transport request issued with the engine steps of its transaction, and the host's button read
and POLL (43_host_sequences.md R130, R138, R139). -/

namespace Sys2Proof.Machine

/-- An engine step leaves the block busy or puts the sequencer at its idle position (R20, R21). -/
theorem engineStep_busy_or_idle {s t : State} {d : Bool} (hb : s.busy = true)
    (h : engineStep d s = .next t) : t.busy = true ∨ t.seq.ph = .idle := by
  rcases engineStep_cases hb h with ⟨-, rfl⟩ | ⟨-, v, -, rfl⟩ | ⟨-, rfl⟩ | ⟨-, -, rfl⟩ |
    ⟨-, rfl⟩ | ⟨-, rfl⟩
  case inr.inr.inr.inr.inr => exact .inr rfl
  all_goals exact .inl (by simp [hb])

/-- An engine run that is not lost had a busy block before each of its steps: from the idle position there is
no engine step (log entry 6). -/
theorem busyUntil_of_engineRun {ds : List Bool} {s t : State} (hs : s.busy = true ∨ s.seq.ph = .idle)
    (hr : engineRun ds s = .next t) : busyUntil ds s := by
  induction ds generalizing s with
  | nil => trivial
  | cons d ds ih =>
    obtain ⟨u, hu, hr⟩ := andThen_eq_next.mp hr
    rcases hs with hb | hidle
    · refine ⟨hb, fun v hv => ?_⟩
      obtain rfl : u = v := Host.Outcome.next.inj (hu.symm.trans hv)
      exact ih (engineStep_busy_or_idle hb hu) hr
    · simp [engineStep, hidle] at hu

/-- A request that starts the engine is waited for: the levels of its transaction are taken, no more. -/
theorem issue_transaction {s u t : State} (hready : s.ready = true) {i : Instr} {ds : List Bool}
    (hu : exec i s = .next u) (hb : u.busy = true)
    (hr : Result.andThen (exec i s) (engineRun ds) = .next t) (ht : t.busy = false) (es : List Bool) :
    issue i (ds ++ es) s = .done () t es := by
  rw [hu, andThen_next] at hr
  rw [issue_ready hready, hu, ofResult_next]
  exact waitIdle_engineRun (busyUntil_of_engineRun (.inl hb) hr) hr ht es

/-- READBUTTONS answers the `RES` its transaction ends with (R138). -/
theorem readButtons_transaction {s t : State} (hready : s.ready = true) (hc : s.cfg = true)
    {ds : List Bool} (hr : Result.andThen (exec .rdbtn s) (engineRun ds) = .next t)
    (ht : t.busy = false) (es : List Bool) : readButtons (ds ++ es) s = .done t.res t es := by
  rw [readButtons, issue_transaction hready (exec_rdbtn hready hc) rfl hr ht, done_andThen]

/-- POLL on a block that stays ready: its answer is `RES` after the sample of what was read (R139). -/
theorem poll_of_readButtons {s t : State} {c : Byte} {ds es : List Bool}
    (h : readButtons ds s = .done c t es) (ht : t.ready = true) :
    poll ds s = .done (t.last &&& ~~~c) ((t.latch (0x8000 ||| c.setWidth 16)).sample c) es := by
  obtain ⟨hb, -⟩ := (ready_iff t).mp ht
  rw [poll, h, done_andThen, issue_completes ht (exec_smp ht c) (by simpa using hb), done_andThen,
    sample_res, latch_last, releasedMask_eq_and_not]

/-- Settles O60: the read ends with the union in `RES`, `LAST` as it was and a ready block, which then takes
the sample. -/
theorem pollReportsReleases : Obligations.PollReportsReleases := by
  unfold Obligations.PollReportsReleases
  intro s ds hinv hready hc hl
  obtain ⟨hb, hf⟩ := (ready_iff s).mp hready
  have hread := readButtons_transaction hready hc (buttonReadTransaction s ds hinv hready hc hl) hb []
  rw [List.append_nil] at hread
  have hpoll := poll_of_readButtons hread ((ready_iff _).mpr ⟨hb, hf⟩)
  exact ⟨_, hpoll, rfl, releasedMask_eq_and_not _ _, hb, hf⟩

end Sys2Proof.Machine
end

section
/-! SUPPORT. A legal request is an acceptance, and what an edge does to a block that is presented a word and to
a faulted one (60_exceptions.md R151 to R155). -/

namespace Sys2Proof.Machine

/-- A legal request is executed by the acceptance of its word: the transport requests need the lines, and what
is performed raises no fault and leaves the latched word (R61, R152, R154). -/
theorem exec_eq_accept {i : Instr} {w : Word} (hwf : i.wellFormed = true)
    (he : encode i = .request w) :
    ∃ perform : State → State, (∀ t, (perform t).flt = t.flt ∧ (perform t).ir = t.ir) ∧
      ∀ s, exec i s = s.accept w (isTransport i) perform := by
  cases i <;> simp only [encode, reduceCtorEq, Code.request.injEq] at he <;> subst he
  case init => exact ⟨State.configureLines, fun _ => ⟨rfl, rfl⟩, fun _ => rfl⟩
  case scmd c => exact ⟨State.startEngine, fun _ => ⟨rfl, rfl⟩, fun _ => rfl⟩
  case ldp x v => exact ⟨fun t => t.storeCell x v, fun _ => ⟨rfl, rfl⟩, fun _ => rfl⟩
  case sbulk a n =>
    have hn : n.toNat ≤ 16 := by simpa [Instr.wellFormed] using hwf
    exact ⟨State.startEngine, fun _ => ⟨rfl, rfl⟩, fun _ => if_pos hn⟩
  case swr1 a v => exact ⟨State.startEngine, fun _ => ⟨rfl, rfl⟩, fun _ => rfl⟩
  case rdbtn => exact ⟨fun t => t.clearReceiver.startEngine, fun _ => ⟨rfl, rfl⟩, fun _ => rfl⟩
  case enc v => exact ⟨fun t => t.setRes (segEncode v), fun _ => ⟨rfl, rfl⟩, fun _ => rfl⟩
  case smp c => exact ⟨fun t => t.sample c, fun _ => ⟨rfl, rfl⟩, fun _ => rfl⟩

/-- A transport request accepted before INIT is raised (R152). -/
theorem exec_unconfigured {i : Instr} {w : Word} {s : State} (hwf : i.wellFormed = true)
    (he : encode i = .request w) (hi : isTransport i = true) (hr : s.ready = true)
    (hc : s.cfg = false) : exec i s = .next (s.raise .notConfigured w) := by
  obtain ⟨perform, -, hx⟩ := exec_eq_accept hwf he
  rw [hx, hi, accept_unconfigured hr hc]

/-- A legal request that needs no lines never changes `FLT`. -/
theorem exec_flt_of_not_transport {i : Instr} {w : Word} {s t : State} (hwf : i.wellFormed = true)
    (he : encode i = .request w) (hi : isTransport i = false) (h : exec i s = .next t) :
    t.flt = s.flt := by
  obtain ⟨perform, hkeep, hx⟩ := exec_eq_accept hwf he
  rw [hx, hi] at h
  rcases accept_cases h with ⟨-, rfl⟩ | ⟨-, hb, -⟩ | ⟨-, -, rfl⟩
  · rfl
  · cases hb
  · exact (hkeep _).1

/-- Settles O18: a legal request is an acceptance, which raises `NOT_CONFIGURED` for a transport request
only. -/
theorem transportNeedsConfiguredLines : Obligations.TransportNeedsConfiguredLines := by
  unfold Obligations.TransportNeedsConfiguredLines
  refine ⟨fun i w s hi hwf he hr hc => exec_unconfigured hwf he hi hr hc, fun i s t hi h => ?_, rfl⟩
  rcases hi with rfl | ⟨x, v, rfl⟩ | ⟨v, rfl⟩ | ⟨c, rfl⟩ <;>
    exact exec_flt_of_not_transport rfl rfl rfl h

theorem acceptWord_of_ok {w : Word} {s : State} {i : Instr} (h : decodeRequest w = .ok i) :
    acceptWord w s = exec i s := by
  simp [acceptWord, h]

/-- Checks (1) and (2) of R154: a block that is not ready is left as it is, whatever the word. -/
theorem acceptWord_held {s : State} (hr : s.ready = false) (w : Word) : acceptWord w s = .next s := by
  cases hd : decodeRequest w with
  | error e => rw [acceptWord_of_error hd, acceptIllegal_held hr]
  | ok i =>
    obtain ⟨hwf, he⟩ := encode_of_decodeRequest hd
    obtain ⟨perform, -, hx⟩ := exec_eq_accept hwf he
    rw [acceptWord_of_ok hd, hx, accept_held hr]

/-- Check (5) of R154: any other legal word is performed, with the word latched and no fault. -/
theorem exec_performed {i : Instr} {w : Word} {s : State} (hwf : i.wellFormed = true)
    (he : encode i = .request w) (hr : s.ready = true) (hc : isTransport i = true → s.cfg = true) :
    ∃ t, exec i s = .next t ∧ t.flt = .none ∧ t.ir = w := by
  obtain ⟨perform, hkeep, hx⟩ := exec_eq_accept hwf he
  obtain ⟨hflt, hir⟩ := hkeep (s.latch w)
  obtain ⟨-, hf⟩ := (ready_iff s).mp hr
  exact ⟨_, (hx s).trans (accept_ready hr hc), hflt.trans hf, hir⟩

/-- Settles O19: one lemma for each check, in the order of R154. -/
theorem checksInOrder : Obligations.ChecksInOrder := by
  unfold Obligations.ChecksInOrder
  intro w s
  refine ⟨fun hf => ?faulted, fun hb => ?busy, fun hr e hd => ?illegal,
    fun hr i hd hi hc => ?unconfigured, fun hr i hd hc => ?performed⟩
  case faulted => exact acceptWord_held (by simp [State.ready, hf]) w
  case busy => exact acceptWord_held (by simp [State.ready, hb]) w
  case illegal => exact (acceptWord_of_error hd).trans (acceptIllegal_ready hr)
  case unconfigured =>
    obtain ⟨hwf, he⟩ := encode_of_decodeRequest hd
    exact (acceptWord_of_ok hd).trans (exec_unconfigured hwf he hi hr hc)
  case performed =>
    obtain ⟨hwf, he⟩ := encode_of_decodeRequest hd
    obtain ⟨t, hx, hflt, hir⟩ := exec_performed hwf he hr hc
    exact ⟨t, (acceptWord_of_ok hd).trans hx, hx, hflt, hir⟩

theorem passEdge_eq (s : State) :
    s.passEdge =
      { s with env := s.env.tail, edge := if s.env = [] then s.edge + 1 else s.edge } := by
  unfold State.passEdge
  rcases s.env with _ | ⟨_, _⟩ <;> rfl

/-- A ready block accepts the first of the presented words (R61). -/
theorem step_presented {s : State} {w : Word} {ws : List Word} (hrst : s.edgeInput.rst = false)
    (hp : s.edgeInput.present = true) (hr : s.ready = true) (hq : s.requests = w :: ws) :
    step s = acceptWord w { s.passEdge with requests := ws } := by
  obtain ⟨hb, hf⟩ := (ready_iff s).mp hr
  simp [step, clockEdge, edgeWith, hrst, hp, hb, hf, hq]

/-- Settles O36: the presented word is accepted, and the acceptance of an illegal one is its fault entry. -/
theorem stepRejectsIllegalWord : Obligations.StepRejectsIllegalWord := by
  unfold Obligations.StepRejectsIllegalWord
  intro s w ws hrst hp hr hq ⟨e, hd⟩
  have hready : State.ready { s.passEdge with requests := ws } = true := by simpa using hr
  refine ⟨rfl, ?_⟩
  rw [step_presented hrst hp hr hq, acceptWord_of_error hd, acceptIllegal_ready hready, passEdge_eq]
  rfl

/-- At an edge without reset a faulted block that is not busy stands still, whatever the host does (R155). -/
theorem step_faulted {s : State} (hb : s.busy = false) (hf : s.flt ≠ .none)
    (hrst : s.edgeInput.rst = false) : step s = .next (s.passEdge.withdraw s.edgeInput) := by
  simp [step, clockEdge, edgeWith, hrst, hb, hf]

/-- Settles O39: by the invariant a faulted block is not busy, so it stands, and with its fault it is not
ready. -/
theorem faultedBlockStands : Obligations.FaultedBlockStands := by
  unfold Obligations.FaultedBlockStands
  intro s hinv hf hrst
  have hb : s.busy = false := Bool.eq_false_iff.mpr fun hb => hf (hinv.busyFlt hb)
  refine ⟨_, step_faulted hb hf hrst, ?_, ⟨?_, ?_⟩, ?_⟩
  · rw [State.sameBlock, passEdge_withdraw_eq]
  · simp
  · simp
  · simp [State.ready, hf]

end Sys2Proof.Machine
end

section
/-! SUPPORT. The wire bytes by pattern, and both encodings as inverses of the decoder (30_encoding.md R62,
R65, R66, R68). -/

namespace Sys2Proof

/-- A wire byte is decoded to the instruction it encodes. -/
theorem decodeWire_of_encode {i : Instr} {b : Byte} (h : encode i = .wire b) :
    decodeWire b = .ok i := by
  cases i <;> simp only [encode, reduceCtorEq, Code.wire.injEq] at h <;> subst h
  case wDisplay k => revert k; decide
  case wAddr a => revert a; decide
  all_goals rfl

/-- Every wire byte is well-formed: only a request has a constraint (R62). -/
theorem wellFormed_of_encode_wire {i : Instr} {b : Byte} (h : encode i = .wire b) :
    i.wellFormed = true := by
  cases i <;> simp only [encode, reduceCtorEq] at h <;> rfl

end Sys2Proof

namespace Sys2Proof.Machine

theorem wireByte_eq_some {i : Instr} {b : Byte} : wireByte i = some b ↔ encode i = .wire b := by
  unfold wireByte
  cases encode i <;> simp

/-- A byte is decoded to a wire byte exactly when it is the code of that wire byte. -/
theorem decodeWire_eq_ok_iff {b : Byte} {i : Instr} :
    decodeWire b = .ok i ↔ encode i = .wire b :=
  ⟨fun h => wireByte_eq_some.mp (wireByte_of_decodeWire h), decodeWire_of_encode⟩

/-- Settles O1, for each of the two encodings. -/
theorem decodeOfEncode : Obligations.DecodeOfEncode := by
  unfold Obligations.DecodeOfEncode
  intro i hwf
  cases he : encode i with
  | request w => exact decodeRequest_of_encode hwf he
  | wire b => exact decodeWire_of_encode he

/-- Settles O2, for each of the two encodings. -/
theorem encodeOfDecode : Obligations.EncodeOfDecode := by
  unfold Obligations.EncodeOfDecode
  intro c i h
  cases c with
  | request w => exact encode_of_decodeRequest h
  | wire b =>
    have he := decodeWire_eq_ok_iff.mp h
    exact ⟨wellFormed_of_encode_wire he, he⟩

/-- The brightness command is recognised by its five fixed bits (R65). -/
theorem displayByte_eq_iff {k : BitVec 3} {b : Byte} :
    displayByte k = b ↔ b &&& 0xF8 = 0x88 ∧ k = b.extractLsb' 0 3 := by
  constructor
  · rintro rfl
    revert k
    decide
  · rintro ⟨hmask, rfl⟩
    revert b
    decide

/-- The address byte is recognised by its four fixed bits (R66). -/
theorem addrByte_eq_iff {a : Nibble} {b : Byte} :
    addrByte a = b ↔ b &&& 0xF0 = 0xC0 ∧ a = b.extractLsb' 0 4 := by
  constructor
  · rintro rfl
    revert a
    decide
  · rintro ⟨hmask, rfl⟩
    revert b
    decide

/-- Settles O5: a byte is decoded to a row exactly when it is the row's byte with its own field. -/
theorem wireRowsSelectByMask : Obligations.WireRowsSelectByMask := by
  unfold Obligations.WireRowsSelectByMask
  intro b
  simp only [decodeWire_eq_ok_iff, encode, Code.wire.injEq]
  exact ⟨fun k => displayByte_eq_iff, eq_comm, eq_comm, eq_comm, fun a => addrByte_eq_iff⟩

/-- Settles O6, line by line and word by word. -/
theorem sampleWordsDecode : Obligations.SampleWordsDecode := by
  unfold Obligations.SampleWordsDecode
  and_intros <;> rfl

end Sys2Proof.Machine
end

section
/-! SUPPORT. Requests presented to a block: the transport requests that start the engine, the results of ENC
and SMP, and the illegal count of SBULK (40_transport.md R88 to R91; 41_segment_encoder.md R112, R114;
42_button_edge.md R123; 60_exceptions.md R154). -/

namespace Sys2Proof.Machine

/-! ### Acceptance -/

/-- The acceptance of a legal SBULK by a ready configured block (R89). -/
theorem exec_sbulk {s : State} (a : Nibble) {n : Byte} (hn : n.toNat ≤ 16) (hr : s.ready = true)
    (hc : s.cfg = true) :
    exec (.sbulk a n) s = .next (s.latch (requestWord 4 a n)).startEngine :=
  (if_pos hn).trans (accept_ready hr fun _ => hc)

/-- The acceptance of SWR1 by a ready configured block (R90). -/
theorem exec_swr1 {s : State} (a : Nibble) (v : Byte) (hr : s.ready = true) (hc : s.cfg = true) :
    exec (.swr1 a v) s = .next (s.latch (requestWord 5 a v)).startEngine :=
  accept_ready hr fun _ => hc

/-- Settles O17, by the acceptance of each transport request. -/
theorem transportRequestsStartEngine : Obligations.TransportRequestsStartEngine := by
  unfold Obligations.TransportRequestsStartEngine
  intro s hr hc
  exact ⟨fun c => exec_scmd c hr hc, fun a n hn => exec_sbulk a hn hr hc,
    fun a v => exec_swr1 a v hr hc, exec_rdbtn hr hc⟩

/-- An SBULK with a count over 16 is presented as an illegal word, before `CFG` is looked at (R89, R154). -/
theorem exec_sbulk_illegal {a : Nibble} {n : Byte} (hn : 16 < n.toNat) (s : State) :
    exec (.sbulk a n) s = s.acceptIllegal (requestWord 4 a n) :=
  if_neg (Nat.not_le.mpr hn)

/-- Settles O20: a ready block raises the fault of an illegal word. -/
theorem bulkCountOver16IsIllegal : Obligations.BulkCountOver16IsIllegal := by
  unfold Obligations.BulkCountOver16IsIllegal
  intro a n s hr hn
  rw [exec_sbulk_illegal hn, acceptIllegal_ready hr]
  rfl

/-- Only an SBULK with a count over 16 is ill-formed (R62). -/
theorem exists_of_not_wellFormed {i : Instr} (h : i.wellFormed = false) :
    ∃ a n, i = .sbulk a n ∧ 16 < n.toNat := by
  cases i <;> simp only [Instr.wellFormed, reduceCtorEq] at h
  case sbulk a n => exact ⟨a, n, rfl, by simpa using h⟩

/-- A request that is presented to a block that is not ready is not accepted (R61, R154). -/
theorem exec_request_held {i : Instr} {w : Word} {s : State} (he : encode i = .request w)
    (hr : s.ready = false) : exec i s = .next s := by
  cases hwf : i.wellFormed with
  | true =>
    obtain ⟨perform, -, hx⟩ := exec_eq_accept hwf he
    rw [hx, accept_held hr]
  | false =>
    obtain ⟨a, n, rfl, hn⟩ := exists_of_not_wellFormed hwf
    rw [exec_sbulk_illegal hn, acceptIllegal_held hr]

/-- Settles O21: legal or not, a request is an acceptance, which a block that is not ready holds. -/
theorem requestsHoldUntilReady : Obligations.RequestsHoldUntilReady := by
  unfold Obligations.RequestsHoldUntilReady
  exact fun i w s he hr => exec_request_held he hr

/-! ### ENC and SMP -/

/-- The table at a digit that is given as an integer. -/
theorem segByte_ofInt {x : Int} (h0 : 0 ≤ x) (h15 : x ≤ 15) :
    segByte (BitVec.ofInt 4 x) = Config.segTable.getD x.toNat 0 := by
  rw [segByte, BitVec.toNat_ofInt, Int.emod_eq_of_lt h0 (by omega)]

/-- The encoding of an operand by the range of its integer (R112). -/
theorem segEncode_by_range (v : Byte) :
    segEncode v =
      if 0 ≤ v.toInt ∧ v.toInt ≤ 15 then Config.segTable.getD v.toInt.toNat 0
      else if 16 ≤ v.toInt ∧ v.toInt ≤ 31 then Config.segTable.getD (v.toInt - 16).toNat 0 ||| 0x80
      else 0x00 := by
  simp only [segEncode, sext8]
  refine ite_congr rfl (fun h => segByte_ofInt h.1 h.2) fun _ => ite_congr rfl (fun h => ?_) fun _ => rfl
  rw [segByte_ofInt (by omega) (by omega)]

/-- The encoding of an operand by its bits: 7 to 5 blank it, 4 is the point, 3 to 0 the digit (R112). -/
theorem segEncode_by_bits : ∀ v : Byte,
    segEncode v =
      if v.extractLsb' 5 3 = 0 then
        Config.segTable.getD (v.extractLsb' 0 4).toNat 0 ||| (if v.getLsbD 4 then 0x80 else 0x00)
      else 0x00 := by decide

/-- Settles O11: the result is the encoding of the operand, in its two forms. -/
theorem encResultByRange : Obligations.EncResultByRange := by
  unfold Obligations.EncResultByRange
  intro v s hr
  refine ⟨_, exec_enc hr v, ?_, segEncode_by_range v, segEncode_by_bits v⟩
  rw [requestWord_zero_x]
  rfl

/-- Nothing is released between two equal samples (R123). -/
theorem releasedMask_self (c : Byte) : releasedMask c c = 0x00 := by
  rw [releasedMask, BitVec.xor_self]
  exact BitVec.zero_and

/-- Settles O15: the second sample is compared with the first. -/
theorem smpAgainReportsNothing : Obligations.SmpAgainReportsNothing := by
  unfold Obligations.SmpAgainReportsNothing
  intro c s hr
  have hagain : ((s.latch (0x8000 ||| c.setWidth 16)).sample c).ready = true := by simpa using hr
  rw [exec_smp hr, andThen_next, exec_smp hagain]
  exact ⟨_, rfl, releasedMask_self c, rfl⟩

/-! ### Reading a glyph back -/

/-- The digit looked up for a byte is the one whose table byte it is (R114). -/
theorem digitOf_segTable_eq_some_iff : ∀ (t : Byte) (d : Nibble),
    digitOf t Config.segTable 0 = some d ↔ t = segByte d := by decide

theorem segByte_injective : ∀ d e : Nibble, segByte d = segByte e → d = e := by decide

theorem segByte_ne_zero : ∀ d : Nibble, segByte d ≠ 0x00 := by decide

/-- A byte reads back as a digit exactly when its low seven bits are the table byte of that digit (R114). -/
theorem glyphOf_eq_digit_iff {g : Byte} {d : Nibble} {p : Bool} :
    glyphOf g = .digit d p ↔ g &&& 0x7F = segByte d ∧ p = g.getLsbD 7 := by
  unfold glyphOf
  split
  case isTrue h =>
    subst h
    simpa using fun h => absurd h.symm (segByte_ne_zero d)
  case isFalse =>
    rw [← digitOf_segTable_eq_some_iff]
    cases digitOf (g &&& 0x7F) Config.segTable 0 <;> simp [eq_comm]

/-- Only 0x00 is blank (R114). -/
theorem glyphOf_eq_blank_iff {g : Byte} : glyphOf g = .blank ↔ g = 0x00 := by
  unfold glyphOf
  split
  case isTrue h => simp [h]
  case isFalse h => cases digitOf (g &&& 0x7F) Config.segTable 0 <;> simpa using h

/-- Settles O13: the table is injective and holds no 0x00, and the lookup is its inverse. -/
theorem glyphsDecodeUniquely : Obligations.GlyphsDecodeUniquely := by
  unfold Obligations.GlyphsDecodeUniquely
  exact ⟨fun g d p => glyphOf_eq_digit_iff, fun g => glyphOf_eq_blank_iff, segByte_injective,
    segByte_ne_zero⟩

end Sys2Proof.Machine
end

section
/-! SUPPORT. Single engine steps: the framing steps, one half-step of a wire byte and of a slot, and a wire byte
sent by 16 executions (40_transport.md R86, R87, R92). -/

namespace Sys2Proof.Machine

/-- The odd half-steps are those whose number is odd. -/
theorem oddHalf_eq : ∀ h : BitVec 4, oddHalf h = (h.toNat % 2 == 1) := by decide

/-- The step that raises the strobe and ends a request (R87, R91). -/
theorem engineStep_stbRiseStep {s : State} (d : Bool) (h : s.seq.ph = .stbRise) :
    engineStep d s = .next s.stbRiseStep := by
  simp [engineStep, h]

/-- Settles O25: each framing phase has its own step. -/
theorem framingSteps : Obligations.FramingSteps := by
  unfold Obligations.FramingSteps
  intro s d
  exact ⟨engineStep_stbFall d, engineStep_dirIn d, engineStep_dirOut d, engineStep_stbRiseStep d⟩

/-- A transmit half-step changes the clock, the data latch, the position and the trace, and nothing else. -/
theorem txHalfStep_eq (s : State) (v : Byte) :
    s.txHalfStep v =
      { s with
        clk := oddHalf s.seq.hs
        dioOut := (s.txHalfStep v).dioOut
        seq := s.seqAfterTx
        trace := (s.txHalfStep v).trace } := by
  unfold State.txHalfStep
  split <;> simp_all [State.record]

/-- A wire byte executed by a transmitting engine performs the half-step of its byte. -/
theorem exec_wire_tx {i : Instr} {v : Byte} {s : State} (hv : wireByte i = some v)
    (hb : s.busy = true) (hp : s.seq.ph = .tx) : exec i s = .next (s.txHalfStep v) :=
  (exec_wire hv s).trans (transmit_next hb hp v)

/-- Settles O22: the half-step that is performed, read off field by field. -/
theorem wireByteHalfStep : Obligations.WireByteHalfStep := by
  unfold Obligations.WireByteHalfStep
  intro i v s hv hb hp
  refine ⟨_, exec_wire_tx hv hb hp, ?frame, fun heven => ?even, fun hodd => ?odd, ?arrow, ?entry⟩
  case frame =>
    rw [txHalfStep_clk, txHalfStep_seq]
    exact txHalfStep_eq s v
  case even => simp [oddHalf_eq, heven, bitIndex]
  case odd => simp [oddHalf_eq, hodd]
  case arrow => rw [txHalfStep_seq, seqAfterTx_of_tx hp]
  case entry => simp

/-- Settles O24: the execution of a wire byte is its transmission, which needs a transmitting engine. -/
theorem wireByteStopsOutsideTransmission : Obligations.WireByteStopsOutsideTransmission := by
  unfold Obligations.WireByteStopsOutsideTransmission
  exact fun i v s hv h => (exec_wire hv s).trans (transmit_refused h v)

/-- The executions that are left of a wire byte after its first `h` half-steps end the byte. -/
theorem execTimes_txMid {i : Instr} {v : Byte} {s : State} (hv : wireByte i = some v)
    (hb : s.busy = true) (hstb : s.stb = false) (hdir : s.dir = true) {n h : Nat} (hn : n + h = 15) :
    execTimes (n + 1) i (txMid s v h) = .next (txDone s v) := by
  induction n generalizing h with
  | zero =>
    obtain rfl : h = 15 := by omega
    rw [execTimes, exec_wire_tx (s := txMid s v 15) hv hb rfl, txMid_last hstb hdir]
    rfl
  | succ n ih =>
    rw [execTimes, exec_wire_tx (s := txMid s v h) hv hb rfl, txMid_step hstb hdir h (by omega),
      andThen_next, ih (by omega)]

/-- A transmitting block is busy, within its bytes, with the strobe low and the data line driven (R16 to R20). -/
theorem State.Inv.lines_of_tx {s : State} (hinv : s.Inv) (hp : s.seq.ph = .tx) :
    s.busy = true ∧ s.seq.ix.toNat < s.runningTx ∧ s.stb = false ∧ s.clk = !oddHalf s.seq.hs ∧
      s.dir = true :=
  ⟨hinv.busyIff.mpr (by simp [hp]), by simpa only [State.phaseOk, hp] using hinv.phase⟩

/-- Settles O23: 16 half-steps, the last of which moves the position on. -/
theorem wireByteInSixteenHalfSteps : Obligations.WireByteInSixteenHalfSteps := by
  unfold Obligations.WireByteInSixteenHalfSteps
  intro i v s hv hinv hp hhs
  obtain ⟨hb, -, hstb, -, hdir⟩ := hinv.lines_of_tx hp
  have hseq : s.seq = ⟨.tx, s.seq.ix, 0⟩ := by rw [← hp, ← hhs]
  have hsent := execTimes_txMid hv hb hstb hdir (n := 15) (h := 0) rfl
  rw [txMid_zero v hseq] at hsent
  exact ⟨_, hsent, rfl⟩

/-- The bit drawn enters the accumulator from the right (R92). -/
theorem rxShift_eq (acc : Byte) (k : Nat) (d : Bool) :
    rxShift Config.rxVariant acc k d = (acc <<< 1) ||| (BitVec.ofBool d).setWidth 8 := by
  cases d <;> rfl

/-- Settles O26: the half-step that is performed, read off field by field. -/
theorem receiveHalfStep : Obligations.ReceiveHalfStep := by
  unfold Obligations.ReceiveHalfStep
  intro s d hp hix
  refine ⟨_, engineStep_rx d hp hix, ?frame, fun heven => ?even, fun hodd => ?odd⟩
  case frame =>
    rw [rxHalfStep_clk, rxHalfStep_seq]
    exact rxHalfStep_eq s d
  case even => simp [oddHalf_eq, heven]
  case odd =>
    have ho : oddHalf s.seq.hs = true := by simp [oddHalf_eq, hodd]
    refine ⟨by simp [ho], by simp [ho, rxShift_eq], fun hlt => ?_, fun hlast => ?_, by simp [ho]⟩
    · rw [rxHalfStep_btn, if_neg fun h => (half_ne_last_iff _).mpr hlt h.2]
    · have hhs : s.seq.hs = 15 := BitVec.eq_of_toNat_eq hlast
      rw [rxHalfStep_btn, if_pos ⟨ho, hhs⟩, rxHalfStep_acc, if_pos ho]
      rfl

end Sys2Proof.Machine
end

section
/-! SUPPORT. The transactions that only write, SBULK and SWR1: any number of bytes in one strobe window
(40_transport.md R89, R90), and how they are read back from the trace (00_scope.md R9). -/

namespace Sys2Proof.Machine

/-! ### Several bytes sent one after another -/

/-- The bytes `bytes` stand at the positions of the request `i` from position `ix` on. -/
def itemsFrom (pay : List Host.Cell) (i : Instr) (ix : Nat) (bytes : List Byte) : Prop :=
  ∀ j (hj : j < bytes.length), ∃ it, txItem pay i (ix + j) = some it ∧ itemByte it = bytes[j]

/-- After the first of the bytes the others stand from the next position on. -/
theorem itemsFrom_tail {pay : List Host.Cell} {i : Instr} {ix : Nat} {v : Byte} {bytes : List Byte}
    (h : itemsFrom pay i ix (v :: bytes)) : itemsFrom pay i (ix + 1) bytes := by
  intro j hj
  rw [show ix + 1 + j = ix + (j + 1) by omega]
  exact h (j + 1) (by simpa using hj)

/-- The position after a byte that is not the last is the next byte. -/
theorem afterByte_next {s : State} (h : s.seq.ix.toNat + 1 < s.runningTx) :
    afterByte s = ⟨.tx, s.seq.ix + 1, 0⟩ ∧ (s.seq.ix + 1).toNat = s.seq.ix.toNat + 1 := by
  have hle := runningTx_le s
  exact ⟨if_pos h, by bv_omega⟩

/-- The first 16 of the engine steps send the byte at the position. -/
theorem engineRun_byte {s : State} {i : Instr} {ix : Nat} {v : Byte} {bytes : List Byte}
    (hitems : itemsFrom s.pay i ix (v :: bytes)) (hrun : s.running = some i) (hb : s.busy = true)
    (hseq : s.seq = ⟨.tx, s.seq.ix, 0⟩) (hix : s.seq.ix.toNat = ix) (hstb : s.stb = false)
    (hdir : s.dir = true) {ds : List Bool} (hl : 16 ≤ ds.length) :
    engineRun ds s = engineRun (ds.drop 16) (txDone s v) := by
  obtain ⟨it, hit, rfl⟩ := hitems 0 (Nat.succ_pos _)
  have hcur : s.currentItem = some it := by
    rw [State.currentItem, hrun, hix]
    exact hit
  rw [engineRun_split 16, engineRun_txByte hb hseq hcur hstb hdir _ (by simp [hl]), andThen_next]

/-- The last bytes of a request that reads nothing: 16 engine steps each, then StbRise is next. -/
theorem engineRun_txBytes {bytes : List Byte} {i : Instr} (hread : i ≠ .rdbtn) {v : Byte} {s : State}
    {ds : List Bool} (hitems : itemsFrom s.pay i s.seq.ix.toNat (v :: bytes))
    (hn : s.seq.ix.toNat + bytes.length + 1 = nTx i) (hrun : s.running = some i) (hb : s.busy = true)
    (hseq : s.seq = ⟨.tx, s.seq.ix, 0⟩) (hstb : s.stb = false) (hdir : s.dir = true)
    (hl : ds.length = 16 * (bytes.length + 1)) :
    engineRun ds s = .next
      { s with
        clk := true
        dioOut := ((v :: bytes).getLastD 0).getLsbD 7
        seq := ⟨.stbRise, 0, 0⟩
        trace := s.trace ++ (v :: bytes).flatMap txEntries } := by
  have htx := runningTx_of_running hrun
  rw [engineRun_byte hitems hrun hb hseq rfl hstb hdir (by omega)]
  induction bytes generalizing s v ds with
  | nil =>
    have hlast : afterByte s = ⟨.stbRise, 0, 0⟩ := by
      rw [afterByte, if_neg (by simp at hn; omega), hrun, if_neg (by simpa using hread)]
    rw [List.drop_of_length_le (by simp [hl])]
    simp [engineRun, txDone, hlast]
  | cons u bytes ih =>
    rw [List.length_cons] at hn hl
    obtain ⟨hnext, hix⟩ := afterByte_next (s := s) (by omega)
    have hix' : (txDone s v).seq.ix.toNat = s.seq.ix.toNat + 1 := by rw [txDone, hnext, hix]
    have hseq' : (txDone s v).seq = ⟨.tx, (txDone s v).seq.ix, 0⟩ := by rw [txDone, hnext]
    have htail := itemsFrom_tail hitems
    rw [engineRun_byte (s := txDone s v) htail hrun hb hseq' hix' hstb hdir
        (by rw [List.length_drop]; omega),
      ih (s := txDone s v) (by rwa [hix']) (by omega) hrun hb hseq' hstb hdir
        (by rw [List.length_drop]; omega) htx]
    simp [txDone]

/-- A transaction that only writes, from its acceptance on an idle block: the strobe falls, the bytes go out,
the strobe rises (R88 to R90). -/
theorem engineRun_write {s : State} {i : Instr} {w : Word} {v : Byte} {bytes : List Byte}
    (hwf : i.wellFormed = true) (he : encode i = .request w) (hread : i ≠ .rdbtn)
    (hitems : itemsFrom s.pay i 0 (v :: bytes)) (hn : bytes.length + 1 = nTx i)
    (hinv : s.Inv) (hr : s.ready = true) {ds : List Bool} (hl : ds.length = 16 * (bytes.length + 1) + 2) :
    engineRun ds (s.latch w).startEngine = .next
      { s with
        ir := w
        dioOut := ((v :: bytes).getLastD 0).getLsbD 7
        trace := s.trace ++
          (⟨false, true, true, s.dioOut, none⟩ :: (v :: bytes).flatMap txEntries) ++
          [⟨true, true, true, ((v :: bytes).getLastD 0).getLsbD 7, none⟩] } := by
  obtain ⟨hb, hseq, hstb, hclk, hdir⟩ := hinv.idle_of_ready hr
  have hrun : (s.latch w).startEngine.running = some i := running_of_ir hwf he rfl
  obtain ⟨d, ds, rfl⟩ := List.exists_cons_of_length_eq_add_one hl
  rw [List.length_cons] at hl
  obtain ⟨d', hd'⟩ := List.length_eq_one_iff.mp
    (show (ds.drop (16 * (bytes.length + 1))).length = 1 by rw [List.length_drop]; omega)
  rw [engineRun_cons (engineStep_stbFall d rfl), engineRun_split (16 * (bytes.length + 1)),
    engineRun_txBytes (s := (s.latch w).startEngine.stbFallStep) hread hitems (by simpa using hn) hrun rfl
      rfl rfl hdir (by rw [List.length_take]; omega),
    andThen_next, hd', engineRun_cons (engineStep_stbRise d' rfl (running_of_ir hwf he rfl)),
    if_neg hread]
  simp [engineRun, State.startEngine, State.latch, State.stbFallStep, State.record, hb, hseq, hstb, hclk,
    hdir]

/-! ### The single and the bulk write -/

/-- The three bytes of SWR1 (R90). -/
theorem itemsFrom_swr1 (pay : List Host.Cell) (a : Nibble) (v : Byte) :
    itemsFrom pay (.swr1 a v) 0 [0x44, 0xC0 ||| a.setWidth 8, v] := by
  intro j hj
  match j, hj with
  | 0, _ => exact ⟨_, rfl, rfl⟩
  | 1, _ => exact ⟨_, rfl, rfl⟩
  | 2, _ => exact ⟨_, rfl, rfl⟩

/-- Settles O30: acceptance, and the write of three bytes. -/
theorem singleWriteTransaction : Obligations.SingleWriteTransaction := by
  unfold Obligations.SingleWriteTransaction
  intro a v s ds hinv hr hc hl
  rw [exec_swr1 a v hr hc, andThen_next,
    engineRun_write (i := .swr1 a v) rfl rfl nofun (itemsFrom_swr1 s.pay a v) rfl hinv hr hl]
  simp [requestWord]

/-- The bytes of SBULK: the command, the address and the first cells of the payload (R89). -/
theorem itemsFrom_sbulk (pay : List Host.Cell) (a : Nibble) (n : Byte) :
    itemsFrom pay (.sbulk a n) 0
      (0x40 :: (0xC0 ||| a.setWidth 8) :: (List.range n.toNat).map fun j => Memory.read pay j) := by
  intro j hj
  match j, hj with
  | 0, _ => exact ⟨_, rfl, rfl⟩
  | 1, _ => exact ⟨_, rfl, rfl⟩
  | j + 2, hj =>
    have hlt : j < n.toNat := by simpa using hj
    exact ⟨.data (Memory.read pay j), by simp [txItem, hlt], by simp [itemByte]⟩

/-- Settles O31: acceptance, and the write of the command, the address and the cells. -/
theorem bulkWriteTransaction : Obligations.BulkWriteTransaction := by
  unfold Obligations.BulkWriteTransaction
  intro a n s ds hinv hr hc hn hl
  rw [exec_sbulk a hn hr hc, andThen_next,
    engineRun_write (i := .sbulk a n) (by simpa [Instr.wellFormed] using hn) rfl nofun
      (itemsFrom_sbulk s.pay a n) (by simp [nTx]; omega) hinv hr (by simp; omega)]
  rfl

/-! ### The bytes of a strobe window -/

/-- Inside a window the entries with the strobe low are collected, up to the one that raises it (R9). -/
theorem windowsFrom_window {es : List PinEntry} (hes : ∀ e ∈ es, e.stb = false) {last : PinEntry}
    (hlast : last.stb = true) (w : List PinEntry) :
    windowsFrom false w (es ++ [last]) = [w ++ es] := by
  induction es generalizing w with
  | nil => simp [windowsFrom, hlast]
  | cons e es ih =>
    obtain ⟨he, hes⟩ := List.forall_mem_cons.mp hes
    simp [windowsFrom, he, ih hes]

/-- The 16 half-steps of a byte carry that byte (R9, R86). -/
theorem byteOfHalfSteps_txEntries (v : Byte) : byteOfHalfSteps (txEntries v) = v := by
  refine BitVec.eq_of_getLsbD_eq fun i hi => ?_
  simp only [byteOfHalfSteps, List.range, List.range.loop, List.foldl_cons, List.foldl_nil,
    orBit_getLsbD _ _ _ hi]
  interval_cases i <;> simp [txEntries]

/-- Half-steps taken 16 at a time carry the bytes one after another; a rest of fewer carries none. -/
theorem bytesOfHalfSteps_txEntries {rest : List PinEntry} (hrest : rest.length < 16) (bytes : List Byte)
    {n : Nat} (hn : bytes.length ≤ n) : bytesOfHalfSteps n (bytes.flatMap txEntries ++ rest) = bytes := by
  induction bytes generalizing n with
  | nil => cases n <;> simp [bytesOfHalfSteps, hrest]
  | cons v bytes ih =>
    obtain ⟨n, rfl⟩ := Nat.exists_eq_add_of_lt hn
    have hlen := txEntries_length v
    rw [bytesOfHalfSteps, List.flatMap_cons, List.append_assoc, if_neg (by simp [hlen]),
      List.take_left' hlen, List.drop_left' hlen, byteOfHalfSteps_txEntries, ih (by omega)]

/-- The entries of a byte have the strobe low and the data line driven (R86). -/
theorem mem_txEntries {v : Byte} {e : PinEntry} (h : e ∈ txEntries v) : e.stb = false ∧ e.dir = true := by
  obtain ⟨k, -, rfl⟩ := List.mem_map.mp h
  exact ⟨rfl, rfl⟩

/-- The entries of a slot have the strobe low and the data line as input (R92). -/
theorem mem_rxEntries {dio : Bool} {ds : List Bool} {e : PinEntry} (h : e ∈ rxEntries dio ds) :
    e.stb = false ∧ e.dir = false := by
  obtain ⟨k, -, rfl⟩ := List.mem_map.mp h
  exact ⟨rfl, rfl⟩

/-- A strobe window whose entries with the data line driven are those of the bytes, and fewer than 16 more,
carries the bytes (R9). -/
theorem wireBytes_window {first last : PinEntry} {es rest : List PinEntry} {bytes : List Byte}
    (hfirst : first.stb = false) (hes : ∀ e ∈ es, e.stb = false) (hlast : last.stb = true)
    (hdir : es.filter PinEntry.dir = bytes.flatMap txEntries ++ rest) (hrest : rest.length < 16) :
    wireBytes (first :: es ++ [last]) = [bytes] := by
  have hlen : bytes.length ≤ (bytes.flatMap txEntries ++ rest).length := by
    simp [List.length_flatMap, txEntries_length]
    omega
  have hbytes := bytesOfHalfSteps_txEntries hrest bytes hlen
  rw [← hdir] at hbytes
  simp [wireBytes, windowsFrom, hfirst, windowsFrom_window hes hlast, hbytes]

/-- The entries of transmitted bytes have the strobe low and the data line driven. -/
theorem mem_flatMap_txEntries {bytes : List Byte} {e : PinEntry} (h : e ∈ bytes.flatMap txEntries) :
    e.stb = false ∧ e.dir = true := by
  obtain ⟨v, -, hv⟩ := List.mem_flatMap.mp h
  exact mem_txEntries hv

/-- The entries of slots have the strobe low and the data line as input. -/
theorem mem_flatMap_rxEntries {slots : List (List Bool)} {dio : Bool} {e : PinEntry}
    (h : e ∈ slots.flatMap (rxEntries dio)) : e.stb = false ∧ e.dir = false := by
  obtain ⟨ds, -, hds⟩ := List.mem_flatMap.mp h
  exact mem_rxEntries hds

/-- Settles O33: a write's window holds the entries of its bytes; in a read's the slots have the data line as
input, and the DirOut entry alone is no group of 16. -/
theorem traceCarriesWireBytes : Obligations.TraceCarriesWireBytes := by
  unfold Obligations.TraceCarriesWireBytes
  refine fun bytes dio level => ⟨?write, fun v slots => ?read⟩
  case write =>
    exact wireBytes_window (rest := []) rfl (fun e he => (mem_flatMap_txEntries he).1) rfl
      (by simpa using fun e he => (mem_flatMap_txEntries he).2) (by simp)
  case read =>
    have htx : ∀ e ∈ txEntries v, e.stb = false ∧ e.dir = true := fun e he => mem_txEntries he
    have hrx : ∀ e ∈ slots.flatMap (rxEntries level), e.stb = false ∧ e.dir = false :=
      fun e he => mem_flatMap_rxEntries he
    have htxDriven : (txEntries v).filter PinEntry.dir = txEntries v :=
      List.filter_eq_self.mpr fun e he => (htx e he).2
    have hrxInput : (slots.flatMap (rxEntries level)).filter PinEntry.dir = [] :=
      List.filter_eq_nil_iff.mpr fun e he => by simp [(hrx e he).2]
    have hread := wireBytes_window (first := ⟨false, true, true, dio, none⟩)
      (last := ⟨true, true, true, level, none⟩)
      (es := txEntries v ++ ⟨false, true, false, level, none⟩ :: slots.flatMap (rxEntries level) ++
        [⟨false, true, true, level, none⟩])
      (bytes := [v]) (rest := [⟨false, true, true, level, none⟩]) rfl ?low rfl ?driven (by simp)
    · simpa using hread
    case low =>
      simp only [List.mem_append, List.mem_cons, List.not_mem_nil, or_false]
      rintro e ((he | rfl | he) | rfl)
      exacts [(htx e he).1, rfl, (hrx e he).1, rfl]
    case driven =>
      rw [List.filter_append, List.filter_append, htxDriven, List.filter_cons_of_neg (by simp), hrxInput]
      simp

end Sys2Proof.Machine
end

section
/-! SUPPORT. What one clock edge does: the reset, the tick of a busy block, standing still, and the acceptance of
a word (10_state.md R25; 30_encoding.md R61; 70_reset_and_hazards.md R170, R184). -/

namespace Sys2Proof.Machine

/-! ### The branches of an edge -/

/-- An edge with a reset gives the block its reset values (R170). -/
theorem step_reset {s : State} (hrst : s.edgeInput.rst = true) :
    step s = .next (s.passEdge.withdraw s.edgeInput).resetBlock := by
  simp [step, clockEdge, edgeWith, hrst]

/-- A tick of a busy block is an engine step (R81). -/
theorem step_tick {s : State} (hrst : s.edgeInput.rst = false) (hb : s.busy = true)
    (ht : s.edgeInput.tick = true) :
    step s = engineStep s.edgeInput.dio (s.passEdge.withdraw s.edgeInput) := by
  simp [step, clockEdge, edgeWith, hrst, hb, ht]

/-- Without a tick a busy block stands (R184). -/
theorem step_wait {s : State} (hrst : s.edgeInput.rst = false) (hb : s.busy = true)
    (ht : s.edgeInput.tick = false) : step s = .next (s.passEdge.withdraw s.edgeInput) := by
  simp [step, clockEdge, edgeWith, hrst, hb, ht]

/-- A ready block to which nothing is presented stands (R61). -/
theorem step_notPresented {s : State} (hrst : s.edgeInput.rst = false) (hr : s.ready = true)
    (hp : s.edgeInput.present = false) : step s = .next (s.passEdge.withdraw s.edgeInput) := by
  obtain ⟨hb, hf⟩ := (ready_iff s).mp hr
  simp [step, clockEdge, edgeWith, hrst, hb, hf, hp]

/-- A ready block stands when the host has no word left (R61). -/
theorem step_noWords {s : State} (hrst : s.edgeInput.rst = false) (hr : s.ready = true)
    (hp : s.edgeInput.present = true) (hq : s.requests = []) : step s = .next s.passEdge := by
  obtain ⟨hb, hf⟩ := (ready_iff s).mp hr
  simp [step, clockEdge, edgeWith, hrst, hb, hf, hp, hq]

/-- A block that stands at an edge is the same, and accepts nothing. -/
theorem withdraw_stands (s : State) :
    s.sameBlock (s.passEdge.withdraw s.edgeInput) ∧
      s.noWordAccepted (s.passEdge.withdraw s.edgeInput) := by
  rw [passEdge_withdraw_eq]
  exact ⟨rfl, rfl, rfl⟩

/-- Settles O8: the reset values, with the host's list and the trace as the edge leaves them. -/
theorem resetEdgeOverridesEverything : Obligations.ResetEdgeOverridesEverything := by
  unfold Obligations.ResetEdgeOverridesEverything
  intro s hrst
  refine ⟨_, step_reset hrst, rfl, rfl, rfl, rfl, rfl, rfl, rfl, rfl, rfl, rfl, rfl, rfl, rfl,
    fun i => Memory.read_nil i.toNat, rfl, by simp, ?_⟩
  exact (withdraw_stands s).2

/-- Settles O34: the presented word is accepted, and executed as what it decodes to. -/
theorem stepRunsAcceptedRequest : Obligations.StepRunsAcceptedRequest := by
  unfold Obligations.StepRunsAcceptedRequest
  intro s w ws i hrst hp hr hq hd
  rw [step_presented hrst hp hr hq, acceptWord_of_ok hd, passEdge_eq]

/-- Settles O37: the engine step, on the state from which the edge has been taken. -/
theorem stepTicksEngine : Obligations.StepTicksEngine := by
  unfold Obligations.StepTicksEngine
  intro s hrst hb ht
  rw [step_tick hrst hb ht, passEdge_withdraw_eq]

/-- The engine step at a command position is the execution of that command. -/
theorem engineStep_command {s : State} {i : Instr} (d : Bool) (hp : s.seq.ph = .tx)
    (hi : s.currentItem = some (.command i)) : engineStep d s = exec i s := by
  simp [engineStep, hp, hi]

/-- Settles O35: the tick's engine step is the execution of the command at the position. -/
theorem stepRunsWireByte : Obligations.StepRunsWireByte := by
  unfold Obligations.StepRunsWireByte
  intro s i hrst ht hb hp hi
  rw [step_tick hrst hb ht, passEdge_withdraw_eq]
  exact engineStep_command _ hp hi

/-- Settles O38: without a tick the block stands. -/
theorem busyBlockWaitsForTick : Obligations.BusyBlockWaitsForTick := by
  unfold Obligations.BusyBlockWaitsForTick
  intro s hrst hb ht
  exact ⟨_, step_wait hrst hb ht, withdraw_stands s⟩

/-! ### The host's lists -/

/-- The state with other words waiting and others given up. -/
def State.withHost (s : State) (requests givenUp : List Word) : State :=
  { s with requests := requests, givenUp := givenUp }

theorem withHost_seq (s : State) (q g : List Word) : (s.withHost q g).seq = s.seq := rfl

theorem txHalfStep_withHost (s : State) (v : Byte) (q g : List Word) :
    (s.withHost q g).txHalfStep v = (s.txHalfStep v).withHost q g := by
  rw [State.txHalfStep, State.txHalfStep, withHost_seq]
  split <;> rfl

theorem rxHalfStep_withHost (s : State) (d : Bool) (q g : List Word) :
    (s.withHost q g).rxHalfStep d = (s.rxHalfStep d).withHost q g := by
  rw [State.rxHalfStep, State.rxHalfStep, withHost_seq]
  split <;> rfl

/-- An engine step neither reads nor writes the host's lists (R49). -/
theorem engineStep_withHost {s t : State} {d : Bool} (hb : s.busy = true)
    (h : engineStep d s = .next t) (q g : List Word) :
    engineStep d (s.withHost q g) = .next (t.withHost q g) := by
  rcases engineStep_cases hb h with ⟨hp, rfl⟩ | ⟨hp, v, ⟨it, hi, rfl⟩, rfl⟩ | ⟨hp, rfl⟩ |
    ⟨hp, hix, rfl⟩ | ⟨hp, rfl⟩ | ⟨hp, rfl⟩
  case inr.inl =>
    rw [engineStep_tx (s := s.withHost q g) d hb hp hi, txHalfStep_withHost]
  case inr.inr.inr.inl =>
    rw [engineStep_rx (s := s.withHost q g) d hp hix, rxHalfStep_withHost]
  all_goals
    simp only [engineStep, withHost_seq, hp]
    rfl

/-- Other words waiting at an edge change nothing but what is left of them. -/
theorem withdraw_withHost (s : State) (ws : List Word) :
    ∃ q g, State.withdraw (State.passEdge { s with requests := ws }) s.edgeInput =
        (s.passEdge.withdraw s.edgeInput).withHost q g ∧
      ∀ t : State, State.noWordAccepted { s with requests := ws } (t.withHost q g) := by
  refine ⟨_, _, ?_, fun t => ⟨rfl, rfl⟩⟩
  rw [passEdge_withdraw_eq, passEdge_withdraw_eq]
  rfl

/-- Settles O40: a block that is not ready is reset, takes an engine step or stands, each of which leaves the
host's lists alone but for the word given up. -/
theorem waitingWordsDoNotMatter : Obligations.WaitingWordsDoNotMatter := by
  unfold Obligations.WaitingWordsDoNotMatter
  intro s t ws hready h
  obtain ⟨q, g, hw, hlists⟩ := withdraw_withHost s ws
  suffices hu : step { s with requests := ws } = .next (t.withHost q g) from
    ⟨_, hu, rfl, hlists t⟩
  rcases step_cases h with ⟨hrst, rfl⟩ | ⟨hrst, hb, ht, hx⟩ | ⟨hrst, hb, ht, rfl⟩ |
    ⟨hrst, -, hb, rfl⟩ | ⟨-, hr, -⟩ | ⟨-, hr, -⟩ | ⟨-, hr, -⟩
  · rw [step_reset (s := { s with requests := ws }) hrst]
    exact congrArg (Host.Outcome.next ∘ State.resetBlock) hw
  · rw [step_tick (s := { s with requests := ws }) hrst hb ht]
    exact (congrArg _ hw).trans (engineStep_withHost (by simpa using hb) hx q g)
  · rw [step_wait (s := { s with requests := ws }) hrst hb ht]
    exact congrArg _ hw
  · have hf : s.flt ≠ .none := fun hf => by simp [State.ready, hb, hf] at hready
    rw [step_faulted (s := { s with requests := ws }) hb hf hrst]
    exact congrArg _ hw
  all_goals simp [hready] at hr

/-! ### The output ports -/

theorem bits_eq_zero_iff (f : FaultCode) : f.bits = 0 ↔ f = .none := by
  cases f <;> decide

/-- Settles O42: the ports are the registers, and the block is ready when it is neither busy nor faulted. -/
theorem outputPorts : Obligations.OutputPorts := by
  unfold Obligations.OutputPorts
  intro s
  refine ⟨?ready, rfl, rfl, rfl, rfl, rfl, rfl, rfl, rfl, ?enable⟩
  case ready =>
    rw [bits_eq_zero_iff]
    exact ready_iff s
  case enable => exact Bool.and_eq_true_iff

end Sys2Proof.Machine
end

section
/-! SUPPORT. What a step does to the block, in few cases: an edge without a reset lets the engine take a step,
lets the block stand, or has it accept a word; and what the acceptance of a word can do (10_state.md R25;
30_encoding.md R61; 60_exceptions.md R154). -/

namespace Sys2Proof.Machine

/-- The block after the edge is taken and the first word is taken out of the host's list. -/
theorem sameBlock_passEdge (s : State) (ws : List Word) :
    s.sameBlock { s.passEdge with requests := ws } := by
  rw [passEdge_eq]
  rfl

/-- Everything a step without a reset can do to the block. -/
theorem step_block_cases {s t : State} (hrst : s.edgeInput.rst = false) (h : step s = .next t) :
    (s.busy = true ∧ engineStep s.edgeInput.dio (s.passEdge.withdraw s.edgeInput) = .next t) ∨
    s.sameBlock t ∨
    (s.ready = true ∧ ∃ w ws, s.requests = w :: ws ∧
      acceptWord w { s.passEdge with requests := ws } = .next t) := by
  rcases step_cases h with ⟨hr, -⟩ | ⟨-, hb, -, hx⟩ | ⟨-, -, -, rfl⟩ | ⟨-, -, -, rfl⟩ |
    ⟨-, -, -, -, rfl⟩ | ⟨-, -, -, rfl⟩ | ⟨-, hready, -, hx⟩
  case inl => simp [hr] at hrst
  case inr.inl => exact .inl ⟨hb, hx⟩
  case inr.inr.inr.inr.inl => exact .inr (.inl (sameBlock_passEdge s s.passEdge.requests))
  case inr.inr.inr.inr.inr.inr => exact .inr (.inr ⟨hready, hx⟩)
  all_goals exact .inr (.inl (withdraw_stands s).1)

/-- Everything the acceptance of a word by a ready block can do: a fault, the start of the engine, or the effect
of a request that completes. -/
theorem acceptWord_ready_cases {w : Word} {s t : State} (hr : s.ready = true)
    (h : acceptWord w s = .next t) :
    (∃ f, t = s.raise f w) ∨
    (s.cfg = true ∧ ∃ i, isTransport i = true ∧ i.wellFormed = true ∧ encode i = .request w ∧
      (t = (s.latch w).startEngine ∨ t = (s.latch w).clearReceiver.startEngine)) ∨
    (w = 0x1000 ∧ t = (s.latch w).configureLines) ∨
    (∃ x v, w = requestWord 3 x v ∧ t = (s.latch w).storeCell x v) ∨
    (∃ v, w = requestWord 7 0 v ∧ t = (s.latch w).setRes (segEncode v)) ∨
    (∃ c, w = requestWord 8 0 c ∧ t = (s.latch w).sample c) := by
  rcases acceptWord_cases h with ⟨i, hd, hx⟩ | ⟨e, -, hx⟩
  · obtain ⟨hwf, he⟩ := encode_of_decodeRequest hd
    rcases exec_request_cases he hx with ⟨hnot, -⟩ | ⟨-, -, rfl⟩ | ⟨-, -, -, rfl⟩ |
      ⟨-, hi, hc, ht⟩ | ⟨-, rfl, rfl⟩ | ⟨-, x, v, rfl, rfl⟩ | ⟨-, v, rfl, rfl⟩ | ⟨-, c, rfl, rfl⟩
    · simp [hnot] at hr
    · exact .inl ⟨_, rfl⟩
    · exact .inl ⟨_, rfl⟩
    · exact .inr (.inl ⟨hc, i, hi, hwf, he, ht.imp_right And.right⟩)
    · exact .inr (.inr (.inl ⟨(Code.request.inj he).symm, rfl⟩))
    · exact .inr (.inr (.inr (.inl ⟨x, v, (Code.request.inj he).symm, rfl⟩)))
    · exact .inr (.inr (.inr (.inr (.inl ⟨v, (Code.request.inj he).symm, rfl⟩))))
    · exact .inr (.inr (.inr (.inr (.inr ⟨c, (Code.request.inj he).symm, rfl⟩))))
  · rw [acceptIllegal_ready hr] at hx
    exact .inl ⟨_, (Host.Outcome.next.inj hx).symm⟩

end Sys2Proof.Machine
end

section
/-! SUPPORT. The invariant: it holds at reset, every step keeps it, under it every step answers, and every tick
brings the end of the transaction one step nearer (10_state.md R16 to R24; 40_transport.md R94;
70_reset_and_hazards.md R182). -/

namespace Sys2Proof.Machine

/-! ### Idle blocks -/

/-- An idle block with its lines at the idle levels meets the invariant. -/
theorem State.Inv.of_idle {s : State} (hpay : Memory.wf s.pay) (hb : s.busy = false)
    (hseq : s.seq = ⟨.idle, 0, 0⟩) (hlines : s.stb = true ∧ s.clk = true ∧ s.dir = true)
    (hlow : s.cfg = false → s.dioOut = false) : s.Inv where
  payOk := hpay
  busyIff := by simp [hb, hseq]
  busyCfg := by simp [hb]
  busyFlt := by simp [hb]
  busyRun := by simp [hb]
  cfgLow := hlow
  phase := by simp [State.phaseOk, hseq, hlines]

/-- The invariant speaks of the block only. -/
theorem State.Inv.of_sameBlock {s t : State} (hinv : s.Inv) (h : s.sameBlock t) : t.Inv := by
  unfold State.sameBlock at h
  rw [h]
  exact ⟨hinv.payOk, hinv.busyIff, hinv.busyCfg, hinv.busyFlt, hinv.busyRun, hinv.cfgLow, hinv.phase⟩

/-- A reset leaves a block that meets the invariant. -/
theorem resetBlock_inv (s : State) : s.resetBlock.Inv :=
  .of_idle Memory.wf_nil rfl rfl ⟨rfl, rfl, rfl⟩ fun _ => rfl

/-- Settles O43: the reset state is idle, with empty payload and the lines at their idle levels. -/
theorem invariantHoldsAtReset : Obligations.InvariantHoldsAtReset := by
  unfold Obligations.InvariantHoldsAtReset
  exact resetBlock_inv State.reset

/-- A block whose engine has just started meets the invariant. -/
theorem State.Inv.of_stbFall {s : State} (hpay : Memory.wf s.pay) (hb : s.busy = true)
    (hseq : s.seq = ⟨.stbFall, 0, 0⟩) (hlines : s.stb = true ∧ s.clk = true ∧ s.dir = true)
    (hc : s.cfg = true) (hf : s.flt = .none) (hrun : ∃ i, s.running = some i ∧ isTransport i = true) :
    s.Inv where
  payOk := hpay
  busyIff := by simp [hb, hseq]
  busyCfg _ := hc
  busyFlt _ := hf
  busyRun _ := hrun
  cfgLow := by simp [hc]
  phase := by simp [State.phaseOk, hseq, hlines]

/-- The acceptance of a word keeps the invariant. -/
theorem acceptWord_inv {w : Word} {s t : State} (hinv : s.Inv) (hr : s.ready = true)
    (h : acceptWord w s = .next t) : t.Inv := by
  obtain ⟨hb, hseq, hlines⟩ := hinv.idle_of_ready hr
  obtain ⟨-, hf⟩ := (ready_iff s).mp hr
  rcases acceptWord_ready_cases hr h with ⟨f, rfl⟩ | ⟨hc, i, hi, hwf, he, rfl | rfl⟩ | ⟨-, rfl⟩ |
    ⟨x, v, -, rfl⟩ | ⟨v, -, rfl⟩ | ⟨c, -, rfl⟩
  · exact .of_idle hinv.payOk hb hseq hlines hinv.cfgLow
  · exact .of_stbFall hinv.payOk rfl rfl hlines hc hf ⟨i, running_of_ir hwf he rfl, hi⟩
  · exact .of_stbFall hinv.payOk rfl rfl hlines hc hf ⟨i, running_of_ir hwf he rfl, hi⟩
  · exact .of_idle hinv.payOk hb hseq ⟨rfl, rfl, rfl⟩ nofun
  · exact .of_idle (Memory.wf_write v x.isLt hinv.payOk) hb hseq hlines hinv.cfgLow
  · exact .of_idle hinv.payOk hb hseq hlines hinv.cfgLow
  · exact .of_idle hinv.payOk hb hseq hlines hinv.cfgLow

/-! ### Engine steps -/

/-- Where a transmit half-step leads, by what is left of the byte and of the bytes (R20). -/
theorem seqAfterTx_cases {s : State} (hp : s.seq.ph = .tx) (hix : s.seq.ix.toNat < s.runningTx) :
    (s.seq.hs ≠ 15 ∧ s.seqAfterTx = ⟨.tx, s.seq.ix, s.seq.hs + 1⟩) ∨
    (s.seq.hs = 15 ∧ (s.seq.ix + 1).toNat = s.seq.ix.toNat + 1 ∧ s.seq.ix.toNat + 1 < s.runningTx ∧
      s.seqAfterTx = ⟨.tx, s.seq.ix + 1, 0⟩) ∨
    (s.seq.hs = 15 ∧ s.seq.ix.toNat + 1 = s.runningTx ∧ s.running = some .rdbtn ∧
      s.seqAfterTx = ⟨.dirIn, 0, 0⟩) ∨
    (s.seq.hs = 15 ∧ s.seq.ix.toNat + 1 = s.runningTx ∧ s.running ≠ some .rdbtn ∧
      s.seqAfterTx = ⟨.stbRise, 0, 0⟩) := by
  have hle := runningTx_le s
  unfold State.seqAfterTx
  by_cases hhs : s.seq.hs = 15
  · by_cases hlast : s.seq.ix.toNat + 1 < s.runningTx
    · exact .inr (.inl ⟨hhs, by bv_omega, hlast, by simp [hhs, hlast]⟩)
    · by_cases hrun : s.running = some .rdbtn
      · exact .inr (.inr (.inl ⟨hhs, by omega, hrun, by simp [hhs, hlast, hrun]⟩))
      · exact .inr (.inr (.inr ⟨hhs, by omega, hrun, by simp [hhs, hlast, hrun]⟩))
  · exact .inl ⟨hhs, (if_pos hhs).trans (by simp only [hp])⟩

/-- Where a receive half-step leads (R20). -/
theorem seqAfterRx_cases {s : State} (hp : s.seq.ph = .rx) (hix : s.seq.ix.toNat < 4) :
    (s.seq.hs ≠ 15 ∧ s.seqAfterRx = ⟨.rx, s.seq.ix, s.seq.hs + 1⟩) ∨
    (s.seq.hs = 15 ∧ (s.seq.ix + 1).toNat = s.seq.ix.toNat + 1 ∧ s.seq.ix.toNat + 1 < 4 ∧
      s.seqAfterRx = ⟨.rx, s.seq.ix + 1, 0⟩) ∨
    (s.seq.hs = 15 ∧ s.seq.ix.toNat + 1 = 4 ∧ s.seqAfterRx = ⟨.dirOut, 0, 0⟩) := by
  unfold State.seqAfterRx
  by_cases hhs : s.seq.hs = 15
  · by_cases hlast : s.seq.ix.toNat + 1 < 4
    · exact .inr (.inl ⟨hhs, by bv_omega, hlast, by simp [hhs, hlast, Config.rxSlots]⟩)
    · exact .inr (.inr ⟨hhs, by omega, by simp [hhs, hlast, Config.rxSlots]⟩)
  · exact .inl ⟨hhs, (if_pos hhs).trans (by simp only [hp])⟩

/-- A transmit half-step keeps the block busy and its lines as the next phase wants them. -/
theorem txHalfStep_phaseOk {s : State} (v : Byte) (hp : s.seq.ph = .tx) (hphase : s.phaseOk) :
    (s.txHalfStep v).seq.ph ≠ .idle ∧ (s.txHalfStep v).phaseOk := by
  simp only [State.phaseOk, hp] at hphase
  obtain ⟨hix, hstb, -, hdir⟩ := hphase
  have htx := runningTx_congr s (txHalfStep_ir s v)
  have hrun := running_congr s (txHalfStep_ir s v)
  rcases seqAfterTx_cases hp hix with ⟨hhs, hseq⟩ | ⟨hhs, hnext, hlast, hseq⟩ | ⟨hhs, -, hread, hseq⟩ |
    ⟨hhs, -, -, hseq⟩ <;>
    simp only [State.phaseOk, State.reading, txHalfStep_seq, hseq, txHalfStep_stb, txHalfStep_clk,
      txHalfStep_dir, htx, hrun]
  · exact ⟨nofun, hix, hstb, by rw [oddHalf_succ _ hhs, Bool.not_not], hdir⟩
  · exact ⟨nofun, by omega, hstb, by rw [hhs]; rfl, hdir⟩
  · exact ⟨nofun, hread, trivial, hstb, by rw [hhs]; rfl, hdir⟩
  · exact ⟨nofun, trivial, hstb, by rw [hhs]; rfl, hdir⟩

/-- A receive half-step keeps the block busy and its lines as the next phase wants them. -/
theorem rxHalfStep_phaseOk {s : State} (d : Bool) (hp : s.seq.ph = .rx) (hphase : s.phaseOk) :
    (s.rxHalfStep d).seq.ph ≠ .idle ∧ (s.rxHalfStep d).phaseOk := by
  simp only [State.phaseOk, hp] at hphase
  obtain ⟨hread, hix, hstb, -, hdir⟩ := hphase
  have hrun := running_congr s (rxHalfStep_ir s d)
  rcases seqAfterRx_cases hp hix with ⟨hhs, hseq⟩ | ⟨hhs, hnext, hlast, hseq⟩ | ⟨hhs, -, hseq⟩ <;>
    simp only [State.phaseOk, State.reading, rxHalfStep_seq, hseq, rxHalfStep_stb, rxHalfStep_clk,
      rxHalfStep_dir, hrun]
  · exact ⟨nofun, hread, hix, hstb, by rw [oddHalf_succ _ hhs, Bool.not_not], hdir⟩
  · exact ⟨nofun, hread, by omega, hstb, by rw [hhs]; rfl, hdir⟩
  · exact ⟨nofun, hread, trivial, hstb, by rw [hhs]; rfl, hdir⟩

/-- A running request transmits at least one byte. -/
theorem State.Inv.runningTx_pos {s : State} (hinv : s.Inv) (hb : s.busy = true) : 0 < s.runningTx := by
  obtain ⟨i, hrun, hi⟩ := hinv.busyRun hb
  rw [runningTx_of_running hrun]
  cases i <;> simp [isTransport] at hi <;> simp [nTx]

/-- After an engine step the block is busy unless it is idle, with its lines as its phase wants them. -/
theorem engineStep_phaseOk {s t : State} {d : Bool} (hinv : s.Inv) (hb : s.busy = true)
    (h : engineStep d s = .next t) : (t.busy = true ↔ t.seq.ph ≠ .idle) ∧ t.phaseOk := by
  have hphase := hinv.phase
  rcases engineStep_cases hb h with ⟨hp, rfl⟩ | ⟨hp, v, -, rfl⟩ | ⟨hp, rfl⟩ | ⟨hp, -, rfl⟩ | ⟨hp, rfl⟩ |
    ⟨hp, rfl⟩
  case inr.inl =>
    obtain ⟨hne, hok⟩ := txHalfStep_phaseOk v hp hphase
    exact ⟨iff_of_true (by simpa using hb) hne, hok⟩
  case inr.inr.inr.inl =>
    obtain ⟨hne, hok⟩ := rxHalfStep_phaseOk d hp hphase
    exact ⟨iff_of_true (by simpa using hb) hne, hok⟩
  all_goals simp only [State.phaseOk, hp] at hphase
  case inl =>
    obtain ⟨-, -, hclk, hdir⟩ := hphase
    exact ⟨iff_of_true hb nofun, hinv.runningTx_pos hb, rfl,
      by rw [stbFallStep_clk, stbFallStep_seq, hclk]; rfl, hdir⟩
  case inr.inr.inl =>
    obtain ⟨hread, -, hstb, hclk, -⟩ := hphase
    exact ⟨iff_of_true hb nofun, hread, Nat.succ_pos 3, hstb,
      by rw [dirInStep_clk, dirInStep_seq, hclk]; rfl, rfl⟩
  case inr.inr.inr.inr.inl =>
    obtain ⟨-, -, hstb, hclk, -⟩ := hphase
    exact ⟨iff_of_true hb nofun, rfl, hstb, hclk, rfl⟩
  case inr.inr.inr.inr.inr =>
    obtain ⟨-, -, hclk, hdir⟩ := hphase
    exact ⟨by simp, rfl, rfl, hclk, hdir⟩

/-- An engine step keeps the invariant. -/
theorem engineStep_inv {s t : State} {d : Bool} (hinv : s.Inv) (hb : s.busy = true)
    (h : engineStep d s = .next t) : t.Inv := by
  obtain ⟨hbusy, hphase⟩ := engineStep_phaseOk hinv hb h
  have hframe := engineStep_frame hb h
  have hc : t.cfg = true := by rw [hframe]; exact hinv.busyCfg hb
  have hrun : t.running = s.running := running_congr s (by rw [hframe])
  exact {
    payOk := by rw [hframe]; exact hinv.payOk
    busyIff := hbusy
    busyCfg := fun _ => hc
    busyFlt := fun _ => by rw [hframe]; exact hinv.busyFlt hb
    busyRun := fun _ => by rw [hrun]; exact hinv.busyRun hb
    cfgLow := by simp [hc]
    phase := hphase }

/-- Settles O44: the reset state meets the invariant, and an engine step, standing still and an acceptance keep
it. -/
theorem stepKeepsInvariant : Obligations.StepKeepsInvariant := by
  unfold Obligations.StepKeepsInvariant
  intro s t hinv h
  cases hrst : s.edgeInput.rst with
  | true =>
    rw [step_reset hrst] at h
    cases h
    exact resetBlock_inv _
  | false =>
    rcases step_block_cases hrst h with ⟨hb, hx⟩ | hsame | ⟨hr, w, ws, -, hx⟩
    · exact engineStep_inv (hinv.of_sameBlock (withdraw_stands s).1) (by simpa using hb) hx
    · exact hinv.of_sameBlock hsame
    · exact acceptWord_inv (hinv.of_sameBlock (sameBlock_passEdge s ws)) (by simpa using hr) hx

/-! ### Every step answers -/

/-- Under the invariant an engine step of a busy block answers a next state. -/
theorem engineStep_next {s : State} (hinv : s.Inv) (hb : s.busy = true) (d : Bool) :
    ∃ t, engineStep d s = .next t := by
  have hphase := hinv.phase
  cases hp : s.seq.ph with
  | idle => exact absurd hp (hinv.busyIff.mp hb)
  | stbFall => exact ⟨_, engineStep_stbFall d hp⟩
  | tx =>
    obtain ⟨-, hix, -⟩ := hinv.lines_of_tx hp
    obtain ⟨it, hit⟩ := Option.isSome_iff_exists.mp (currentItem_isSome.mpr hix)
    exact ⟨_, engineStep_tx d hb hp hit⟩
  | dirIn => exact ⟨_, engineStep_dirIn d hp⟩
  | rx =>
    simp only [State.phaseOk, hp] at hphase
    obtain ⟨-, hix, -⟩ := hphase
    exact ⟨_, engineStep_rx d hp hix⟩
  | dirOut => exact ⟨_, engineStep_dirOut d hp⟩
  | stbRise => exact ⟨_, engineStep_stbRiseStep d hp⟩

theorem accept_next (s : State) (w : Word) (b : Bool) (f : State → State) :
    ∃ t, s.accept w b f = .next t := by
  unfold State.accept
  split_ifs <;> exact ⟨_, rfl⟩

theorem acceptIllegal_next (s : State) (w : Word) : ∃ t, s.acceptIllegal w = .next t := by
  unfold State.acceptIllegal
  split_ifs <;> exact ⟨_, rfl⟩

/-- The acceptance of a word answers a next state in every state. -/
theorem acceptWord_next (w : Word) (s : State) : ∃ t, acceptWord w s = .next t := by
  cases hd : decodeRequest w with
  | error e =>
    rw [acceptWord_of_error hd]
    exact acceptIllegal_next s w
  | ok i =>
    obtain ⟨hwf, he⟩ := encode_of_decodeRequest hd
    obtain ⟨perform, -, hx⟩ := exec_eq_accept hwf he
    rw [acceptWord_of_ok hd, hx]
    exact accept_next s w _ perform

/-- A step of a ready block without a reset answers a next state. -/
theorem step_ready_next {s : State} (hrst : s.edgeInput.rst = false) (hr : s.ready = true) :
    ∃ t, step s = .next t := by
  cases hp : s.edgeInput.present with
  | false => exact ⟨_, step_notPresented hrst hr hp⟩
  | true =>
    cases hq : s.requests with
    | nil => exact ⟨_, step_noWords hrst hr hp hq⟩
    | cons w ws =>
      rw [step_presented hrst hp hr hq]
      exact acceptWord_next w _

/-- Settles O45: only an engine step could stop, and under the invariant none does. -/
theorem stepNeverStops : Obligations.StepNeverStops := by
  unfold Obligations.StepNeverStops
  intro s hinv
  cases hrst : s.edgeInput.rst with
  | true => exact ⟨_, step_reset hrst⟩
  | false =>
    cases hb : s.busy with
    | true =>
      cases ht : s.edgeInput.tick with
      | true =>
        rw [step_tick hrst hb ht]
        exact engineStep_next (hinv.of_sameBlock (withdraw_stands s).1) (by simpa using hb) _
      | false => exact ⟨_, step_wait hrst hb ht⟩
    | false =>
      by_cases hf : s.flt = .none
      · exact step_ready_next hrst ((ready_iff s).mpr ⟨hb, hf⟩)
      · exact ⟨_, step_faulted hb hf hrst⟩

/-! ### The engine steps left -/

/-- The measure speaks of the position and the request only. -/
theorem stepsLeft_congr {s t : State} (hseq : t.seq = s.seq) (hir : t.ir = s.ir) :
    t.stepsLeft = s.stepsLeft := by
  simp only [State.stepsLeft, State.readSteps, hseq, runningTx_congr s hir, running_congr s hir]

/-- Under the invariant a block is busy exactly when steps are left. -/
theorem State.Inv.busy_iff_stepsLeft {s : State} (hinv : s.Inv) :
    s.busy = true ↔ s.stepsLeft ≠ 0 := by
  rw [hinv.busyIff]
  cases hp : s.seq.ph <;> simp [State.stepsLeft, hp]

theorem half_succ_toNat : ∀ h : BitVec 4, h ≠ 15 → (h + 1).toNat = h.toNat + 1 := by decide

theorem half_first_toNat : (0 : BitVec 4).toNat = 0 := rfl

theorem half_last_toNat : (15 : BitVec 4).toNat = 15 := rfl

theorem byte_first_toNat : (0 : BitVec 5).toNat = 0 := rfl

/-- A transmit half-step is one step of those left. -/
theorem txHalfStep_stepsLeft {s : State} (v : Byte) (hp : s.seq.ph = .tx)
    (hix : s.seq.ix.toNat < s.runningTx) : (s.txHalfStep v).stepsLeft + 1 = s.stepsLeft := by
  have htx := runningTx_congr s (txHalfStep_ir s v)
  have hrun := running_congr s (txHalfStep_ir s v)
  have hlt := s.seq.hs.isLt
  rcases seqAfterTx_cases hp hix with ⟨hhs, hseq⟩ | ⟨hhs, hnext, hlast, hseq⟩ |
    ⟨hhs, hlast, hread, hseq⟩ | ⟨hhs, hlast, hread, hseq⟩ <;>
    simp only [State.stepsLeft, State.readSteps, txHalfStep_seq, hseq, hp, htx, hrun]
  · rw [half_succ_toNat _ hhs]
    omega
  · rw [hnext, hhs, half_first_toNat, half_last_toNat]
    omega
  · rw [if_pos hread, hhs, half_last_toNat]
    omega
  · rw [if_neg hread, hhs, half_last_toNat]
    omega

/-- A receive half-step is one step of those left. -/
theorem rxHalfStep_stepsLeft {s : State} (d : Bool) (hp : s.seq.ph = .rx) (hix : s.seq.ix.toNat < 4) :
    (s.rxHalfStep d).stepsLeft + 1 = s.stepsLeft := by
  have hlt := s.seq.hs.isLt
  rcases seqAfterRx_cases hp hix with ⟨hhs, hseq⟩ | ⟨hhs, hnext, hlast, hseq⟩ | ⟨hhs, hlast, hseq⟩ <;>
    simp only [State.stepsLeft, rxHalfStep_seq, hseq, hp]
  · rw [half_succ_toNat _ hhs]
    omega
  · rw [hnext, hhs, half_first_toNat, half_last_toNat]
    omega
  · rw [hhs, half_last_toNat]
    omega

/-- An engine step is one step of those left. -/
theorem engineStep_stepsLeft {s t : State} {d : Bool} (hinv : s.Inv) (hb : s.busy = true)
    (h : engineStep d s = .next t) : t.stepsLeft + 1 = s.stepsLeft := by
  rcases engineStep_cases hb h with ⟨hp, rfl⟩ | ⟨hp, v, -, rfl⟩ | ⟨hp, rfl⟩ | ⟨hp, hix, rfl⟩ | ⟨hp, rfl⟩ |
    ⟨hp, rfl⟩
  case inr.inl =>
    obtain ⟨-, hix, -⟩ := hinv.lines_of_tx hp
    exact txHalfStep_stepsLeft v hp hix
  case inr.inr.inr.inl => exact rxHalfStep_stepsLeft d hp hix
  case inl =>
    simp only [State.stepsLeft, State.readSteps, stbFallStep_seq, hp, half_first_toNat, byte_first_toNat,
      runningTx_congr s (stbFallStep_ir s), running_congr s (stbFallStep_ir s)]
    omega
  all_goals simp [State.stepsLeft, hp]

/-- Settles O46: a tick of a busy block is an engine step, which is one of those left. -/
theorem everyTickBringsTheEndNearer : Obligations.EveryTickBringsTheEndNearer := by
  unfold Obligations.EveryTickBringsTheEndNearer
  intro s hinv
  refine ⟨hinv.busy_iff_stepsLeft, fun hb hrst ht => ?_⟩
  have hinv' := hinv.of_sameBlock (withdraw_stands s).1
  have hb' : (s.passEdge.withdraw s.edgeInput).busy = true := by simpa using hb
  obtain ⟨t, hx⟩ := engineStep_next hinv' hb' s.edgeInput.dio
  refine ⟨t, (step_tick hrst hb ht).trans hx, ?_⟩
  rw [engineStep_stepsLeft hinv' hb' hx]
  exact stepsLeft_congr (by simp) (by simp)

/-- A request that is no transport leaves the position where it is. -/
theorem exec_seq_of_not_transport {i : Instr} {w : Word} {s t : State} (hi : isTransport i = false)
    (he : encode i = .request w) (h : exec i s = .next t) : t.seq = s.seq := by
  rcases exec_request_cases he h with ⟨-, rfl⟩ | ⟨-, -, rfl⟩ | ⟨-, -, -, rfl⟩ | ⟨-, hi', -⟩ |
    ⟨-, -, rfl⟩ | ⟨-, x, v, -, rfl⟩ | ⟨-, v, -, rfl⟩ | ⟨-, c, -, rfl⟩
  case inr.inr.inr.inl => simp [hi] at hi'
  all_goals rfl

/-- Before the strobe falls a request has all its steps before it: those of its bytes, of its slots if it reads,
and of the strobe (R96, R182). -/
theorem stepsLeft_of_stbFall {s : State} {i : Instr} (hseq : s.seq = ⟨.stbFall, 0, 0⟩)
    (hrun : s.running = some i) :
    s.stepsLeft = 1 + 16 * nTx i + (if i = .rdbtn then 66 else 0) + 1 := by
  simp only [State.stepsLeft, State.readSteps, hseq, runningTx_of_running hrun, hrun, Option.some.injEq]

/-- Settles O47: a transport request starts at its first step, and any other leaves the block idle. -/
theorem engineStepCounts : Obligations.EngineStepCounts := by
  unfold Obligations.EngineStepCounts
  intro i w s t hinv hr hc hwf he h
  cases hi : isTransport i with
  | true =>
    obtain ⟨u, hu, hir, hseq⟩ := exec_transport_starts hi hwf he hr hc
    obtain rfl : u = t := Host.Outcome.next.inj (hu.symm.trans h)
    rw [stepsLeft_of_stbFall hseq (running_of_ir hwf he hir)]
    cases i <;> simp [isTransport] at hi <;> simp [nTx]
    omega
  | false =>
    obtain ⟨-, hseq, -⟩ := hinv.idle_of_ready hr
    have hidle : t.stepsLeft = 0 := by
      simp [State.stepsLeft, exec_seq_of_not_transport hi he h, hseq]
    rw [hidle]
    cases i <;> simp [isTransport] at hi <;> rfl

end Sys2Proof.Machine
end

section
/-! SUPPORT. Which operations write `CFG`, `LAST`, the payload, the pin trace and the host's lists (00_scope.md
R9; 10_state.md R12, R19, R24; 70_reset_and_hazards.md R183). -/

namespace Sys2Proof.Machine

/-! ### Frames -/

/-- An engine step leaves what only an acceptance or a reset writes, on the state from which the edge has been
taken. -/
theorem engineStep_edge_frame {s t : State} {d : Bool} (hb : s.busy = true)
    (h : engineStep d (s.passEdge.withdraw s.edgeInput) = .next t) :
    t.cfg = s.cfg ∧ t.last = s.last ∧ t.pay = s.pay ∧ s.noWordAccepted t := by
  rw [engineStep_frame (by simpa using hb) h, passEdge_withdraw_eq]
  exact ⟨rfl, rfl, rfl, rfl, rfl⟩

/-- The block in a state that differs in the host's lists and the input levels only. -/
theorem State.sameBlock.fields {s t : State} (h : s.sameBlock t) :
    t.cfg = s.cfg ∧ t.last = s.last ∧ t.pay = s.pay ∧ t.trace = s.trace := by
  unfold State.sameBlock at h
  rw [h]
  exact ⟨rfl, rfl, rfl, rfl⟩

/-- The acceptance of a word by a ready block latches it and leaves the host's lists. -/
theorem acceptWord_latches {w : Word} {s t : State} (hr : s.ready = true)
    (h : acceptWord w s = .next t) :
    t.ir = w ∧ t.requests = s.requests ∧ t.givenUp = s.givenUp := by
  rcases acceptWord_ready_cases hr h with ⟨f, rfl⟩ | ⟨-, i, -, -, -, rfl | rfl⟩ | ⟨-, rfl⟩ |
    ⟨x, v, -, rfl⟩ | ⟨v, -, rfl⟩ | ⟨c, -, rfl⟩ <;> exact ⟨rfl, rfl, rfl⟩

/-! ### `CFG`, `LAST` and the payload -/

/-- If the acceptance of a word changes `CFG`, the word is INIT's and `CFG` rises. -/
theorem acceptWord_cfg {w : Word} {s t : State} (hr : s.ready = true) (h : acceptWord w s = .next t)
    (hc : t.cfg ≠ s.cfg) : t.ir = 0x1000 ∧ t.cfg = true := by
  rcases acceptWord_ready_cases hr h with ⟨f, rfl⟩ | ⟨-, i, -, -, -, rfl | rfl⟩ | ⟨rfl, rfl⟩ |
    ⟨x, v, -, rfl⟩ | ⟨v, -, rfl⟩ | ⟨c, -, rfl⟩
  case inr.inr.inl => exact ⟨rfl, rfl⟩
  all_goals exact absurd rfl hc

/-- Settles O49: of what a step can do, only a reset and the acceptance of INIT change `CFG`. The invariant is
not needed. -/
theorem onlyInitSetsOnlyResetClearsCfg : Obligations.OnlyInitSetsOnlyResetClearsCfg := by
  unfold Obligations.OnlyInitSetsOnlyResetClearsCfg
  intro s t _ h hne
  cases hrst : s.edgeInput.rst with
  | true =>
    rw [step_reset hrst] at h
    cases h
    exact .inl ⟨rfl, rfl⟩
  | false =>
    rcases step_block_cases hrst h with ⟨hb, hx⟩ | hsame | ⟨hr, w, ws, -, hx⟩
    · obtain ⟨hc, -⟩ := engineStep_edge_frame hb hx
      exact absurd hc hne
    · obtain ⟨hc, -⟩ := hsame.fields
      exact absurd hc hne
    · obtain ⟨hir, hc⟩ := acceptWord_cfg (by simpa using hr) hx (by simpa using hne)
      exact .inr ⟨hir, hc, hr⟩

/-- If the acceptance of a word changes `LAST`, the word is that of SMP with the new `LAST`. -/
theorem acceptWord_last {w : Word} {s t : State} (hr : s.ready = true) (h : acceptWord w s = .next t)
    (hl : t.last ≠ s.last) : t.ir = 0x8000 ||| t.last.setWidth 16 := by
  rcases acceptWord_ready_cases hr h with ⟨f, rfl⟩ | ⟨-, i, -, -, -, rfl | rfl⟩ | ⟨-, rfl⟩ |
    ⟨x, v, -, rfl⟩ | ⟨v, -, rfl⟩ | ⟨c, rfl, rfl⟩
  case inr.inr.inr.inr.inr => exact requestWord_zero_x 8 c
  all_goals exact absurd rfl hl

/-- Settles O50: of what a step without a reset can do, only the acceptance of SMP changes `LAST`. The invariant
is not needed. -/
theorem onlySmpWritesLast : Obligations.OnlySmpWritesLast := by
  unfold Obligations.OnlySmpWritesLast
  intro s t _ h hrst hne
  rcases step_block_cases hrst h with ⟨hb, hx⟩ | hsame | ⟨hr, w, ws, -, hx⟩
  · obtain ⟨-, hl, -⟩ := engineStep_edge_frame hb hx
    exact absurd hl hne
  · obtain ⟨-, hl, -⟩ := hsame.fields
    exact absurd hl hne
  · exact ⟨hr, acceptWord_last (by simpa using hr) hx (by simpa using hne)⟩

/-- If the acceptance of a word changes what a payload cell reads, the word is that of the LDP of this cell. -/
theorem acceptWord_pay {w : Word} {s t : State} {j : Nat} (hwf : Memory.wf s.pay) (hr : s.ready = true)
    (h : acceptWord w s = .next t) (hj : Memory.read t.pay j ≠ Memory.read s.pay j) :
    ∃ (i : Nibble) (v : Byte), j = i.toNat ∧ Memory.read t.pay j = v ∧ t.ir = requestWord 3 i v := by
  rcases acceptWord_ready_cases hr h with ⟨f, rfl⟩ | ⟨-, i, -, -, -, rfl | rfl⟩ | ⟨-, rfl⟩ |
    ⟨x, v, rfl, rfl⟩ | ⟨v, -, rfl⟩ | ⟨c, -, rfl⟩
  case inr.inr.inr.inl =>
    obtain rfl : j = x.toNat := by
      by_contra hne
      exact hj (Memory.read_write_other s.pay x.toNat j v hne)
    exact ⟨x, v, rfl, Memory.read_write_same s.pay x.toNat v hwf.1, rfl⟩
  all_goals exact absurd rfl hj

/-- Settles O52: of what a step without a reset can do, only the acceptance of LDP changes a cell, and only its
own. -/
theorem onlyLdpWritesPayload : Obligations.OnlyLdpWritesPayload := by
  unfold Obligations.OnlyLdpWritesPayload
  intro s t j hinv h hrst hne
  rcases step_block_cases hrst h with ⟨hb, hx⟩ | hsame | ⟨hr, w, ws, -, hx⟩
  · obtain ⟨-, -, hpay, -⟩ := engineStep_edge_frame hb hx
    exact absurd (by rw [hpay]) hne
  · obtain ⟨-, -, hpay, -⟩ := hsame.fields
    exact absurd (by rw [hpay]) hne
  · exact ⟨hr, acceptWord_pay (by simpa using hinv.payOk) (by simpa using hr) hx (by simpa using hne)⟩

/-- A wire byte that answers a next state has performed a half-step. -/
theorem exec_wire_cases {i : Instr} {v : Byte} {s t : State} (hv : wireByte i = some v)
    (h : exec i s = .next t) : t = s.txHalfStep v := by
  rw [exec_wire hv, State.transmit] at h
  split at h <;> cases h
  rfl

/-- An instruction other than LDP leaves the payload. -/
theorem exec_pay {i : Instr} {s t : State} (hi : ∀ x v, i ≠ .ldp x v) (h : exec i s = .next t) :
    t.pay = s.pay := by
  cases he : encode i with
  | wire b => rw [exec_wire_cases (wireByte_eq_some.mpr he) h, txHalfStep_pay]
  | request w =>
    rcases exec_request_cases he h with ⟨-, rfl⟩ | ⟨-, -, rfl⟩ | ⟨-, -, -, rfl⟩ |
      ⟨-, -, -, rfl | ⟨-, rfl⟩⟩ | ⟨-, -, rfl⟩ | ⟨-, x, v, hldp, -⟩ | ⟨-, v, -, rfl⟩ | ⟨-, c, -, rfl⟩
    case inr.inr.inr.inr.inr.inl => exact absurd hldp (hi x v)
    all_goals rfl

/-- Settles O53: of the requests only LDP stores, and a wire byte performs a half-step. -/
theorem nonLdpKeepsPayload : Obligations.NonLdpKeepsPayload := by
  unfold Obligations.NonLdpKeepsPayload
  intro i s t hi h j
  rw [exec_pay hi h]

/-! ### The pin trace -/

/-- An engine step adds one entry: the latches after it, and in a sampling half-step the bit drawn (R9). -/
theorem engineStep_trace {s t : State} {d : Bool} (hb : s.busy = true) (h : engineStep d s = .next t) :
    ∃ drawn, t.trace = s.trace ++ [⟨t.stb, t.clk, t.dir, t.dioOut, drawn⟩] ∧
      (drawn = none ∨ drawn = some d) := by
  rcases engineStep_cases hb h with ⟨-, rfl⟩ | ⟨-, v, -, rfl⟩ | ⟨-, rfl⟩ | ⟨-, -, rfl⟩ | ⟨-, rfl⟩ |
    ⟨-, rfl⟩
  case inr.inl => exact ⟨none, by simp, .inl rfl⟩
  case inr.inr.inr.inl =>
    refine ⟨if oddHalf s.seq.hs then some d else none, by simp, ?_⟩
    split
    · exact .inr rfl
    · exact .inl rfl
  all_goals exact ⟨none, rfl, .inl rfl⟩

/-- The acceptance of a word adds no entry, but for INIT's one (R84). -/
theorem acceptWord_trace {w : Word} {s t : State} (hr : s.ready = true) (h : acceptWord w s = .next t) :
    t.trace = s.trace ∨ t.trace = s.trace ++ [⟨t.stb, t.clk, t.dir, t.dioOut, none⟩] := by
  rcases acceptWord_ready_cases hr h with ⟨f, rfl⟩ | ⟨-, i, -, -, -, rfl | rfl⟩ | ⟨-, rfl⟩ |
    ⟨x, v, -, rfl⟩ | ⟨v, -, rfl⟩ | ⟨c, -, rfl⟩
  case inr.inr.inl => exact .inr rfl
  all_goals exact .inl rfl

/-- Settles O54: only an engine step and the acceptance of INIT add an entry, one each. -/
theorem traceGrowsByOneEntry : Obligations.TraceGrowsByOneEntry := by
  unfold Obligations.TraceGrowsByOneEntry
  intro s t h
  cases hrst : s.edgeInput.rst with
  | true =>
    rw [step_reset hrst] at h
    cases h
    exact .inl (by simp)
  | false =>
    rcases step_block_cases hrst h with ⟨hb, hx⟩ | hsame | ⟨hr, w, ws, -, hx⟩
    · exact .inr (by simpa using engineStep_trace (by simpa using hb) hx)
    · obtain ⟨-, -, -, htrace⟩ := hsame.fields
      exact .inl htrace
    · have htrace := acceptWord_trace (by simpa using hr) hx
      simp only [passEdge_trace] at htrace
      exact htrace.imp_right fun hentry => ⟨none, hentry, .inl rfl⟩

/-! ### The host's lists -/

/-- Everything a step can do to the host's lists: nothing is accepted, or a ready block accepts the first
word. -/
theorem step_lists {s t : State} (h : step s = .next t) :
    s.noWordAccepted t ∨ (t.requests = s.requests ∧ t.givenUp = s.givenUp) ∨
    (∃ w, s.requests = w :: t.requests ∧ t.givenUp = s.givenUp ∧ s.ready = true ∧ t.ir = w ∧
      s.edgeInput.rst = false ∧ s.edgeInput.present = true) := by
  rcases step_cases h with ⟨-, rfl⟩ | ⟨-, hb, -, hx⟩ | ⟨-, -, -, rfl⟩ | ⟨-, -, -, rfl⟩ |
    ⟨-, -, -, -, rfl⟩ | ⟨-, -, -, rfl⟩ | ⟨hrst, hr, hp, w, ws, hq, hx⟩
  case inr.inl =>
    obtain ⟨-, -, -, hlists⟩ := engineStep_edge_frame hb hx
    exact .inl hlists
  case inr.inr.inr.inr.inl => exact .inr (.inl ⟨by simp, by simp⟩)
  case inr.inr.inr.inr.inr.inr =>
    obtain ⟨hir, hreq, hgiven⟩ := acceptWord_latches (by simpa using hr) hx
    exact .inr (.inr ⟨w, by rw [hq, hreq], by simpa using hgiven, hr, hir, hrst, hp⟩)
  all_goals exact .inl (withdraw_stands s).2

/-- Where no word is accepted the lists stay, or the first word is recorded as given up. -/
theorem noWordAccepted_cases {s t : State} (h : s.noWordAccepted t) :
    (t.requests = s.requests ∧ t.givenUp = s.givenUp) ∨
    (∃ w, s.requests = w :: t.requests ∧ t.givenUp = s.givenUp ++ [w] ∧ s.edgeInput.giveUp = true) := by
  obtain ⟨hreq, hgiven⟩ := h
  cases hg : s.edgeInput.giveUp with
  | false => exact .inl (by simpa [hg] using And.intro hreq hgiven)
  | true =>
    cases hq : s.requests with
    | nil => exact .inl (by simpa [hg, hq] using And.intro hreq hgiven)
    | cons w ws =>
      simp only [hg, hq, if_true, List.tail_cons, List.take_succ_cons, List.take_zero] at hreq hgiven
      exact .inr ⟨w, by rw [hreq], hgiven, rfl⟩

/-- Settles O55: a run that is over has a ready block, and a word that is given up stays recorded. -/
theorem finishedRunIsIdle : Obligations.FinishedRunIsIdle := by
  unfold Obligations.FinishedRunIsIdle
  refine ⟨fun s hinv ⟨hreq, _, hb, hf⟩ => ?_, fun s t h => ?_⟩
  · obtain ⟨-, hseq, hstb, hclk, hdir⟩ := hinv.idle_of_ready ((ready_iff s).mpr ⟨hb, hf⟩)
    exact ⟨by rw [hseq], hstb, hdir, hclk, hreq⟩
  · rcases step_lists h with hnone | hstay | haccepted
    · rcases noWordAccepted_cases hnone with hstay | ⟨w, hreq, hgiven, hg⟩
      · exact .inl hstay
      · exact .inr (.inr ⟨w, hreq, hgiven, hg, fun ⟨_, hempty, _⟩ => by simp [hgiven] at hempty⟩)
    · exact .inl hstay
    · exact .inr (.inl haccepted)

end Sys2Proof.Machine
end

section
/-! SUPPORT. SETDIGIT on a block in any state: the running transaction is let end, then its ENC is executed
(43_host_sequences.md R130, R135). -/

namespace Sys2Proof.Machine

/-- Under the invariant as many engine steps can be taken as are left, or fewer; each is one of those left, and
no fault is raised (R94). -/
theorem engineRun_within {s : State} {ds : List Bool} (hinv : s.Inv) (hl : ds.length ≤ s.stepsLeft) :
    ∃ t, engineRun ds s = .next t ∧ t.Inv ∧ t.flt = s.flt ∧ t.stepsLeft + ds.length = s.stepsLeft := by
  induction ds generalizing s with
  | nil => exact ⟨s, rfl, hinv, rfl, rfl⟩
  | cons d ds ih =>
    rw [List.length_cons] at hl
    have hb : s.busy = true := hinv.busy_iff_stepsLeft.mpr (by omega)
    obtain ⟨u, hu⟩ := engineStep_next hinv hb d
    have hleft := engineStep_stepsLeft hinv hb hu
    have hflt : u.flt = s.flt := by rw [engineStep_frame hb hu]
    obtain ⟨t, ht, htinv, htflt, htleft⟩ := ih (engineStep_inv hinv hb hu) (by omega)
    refine ⟨t, (engineRun_cons hu).trans ht, htinv, htflt.trans hflt, ?_⟩
    rw [List.length_cons]
    omega

/-- Under the invariant a block is busy or at its idle position (R21). -/
theorem State.Inv.busy_or_idle {s : State} (hinv : s.Inv) : s.busy = true ∨ s.seq.ph = .idle := by
  rw [hinv.busyIff]
  exact ne_or_eq _ _

/-- SETDIGIT writes the result of its ENC when that is done (R135). -/
theorem setDigit_of_issue {d : Driver} {p : Fin 4} {v : Byte} {s u : State} {ds es : List Bool}
    (h : issue (.enc v) ds s = .done () u es) :
    d.setDigit p v ds s = .done { d with db := Memory.write d.db (2 * p.val) u.res } u es := by
  rw [Driver.setDigit, h, done_andThen]

/-- SETDIGIT whose ENC is not accepted (R61, R155). -/
theorem setDigit_of_presenting {d : Driver} {p : Fin 4} {v : Byte} {s t : State} {ds : List Bool}
    (h : issue (.enc v) ds s = .presenting (.enc v) t) :
    d.setDigit p v ds s = .presenting (.enc v) t := by
  rw [Driver.setDigit, h]
  rfl

/-- Settles O57: the steps left of the running transaction are taken, as many as there are levels; then the block
is ready for the ENC, or still busy. -/
theorem setDigitWaitsAndWrites : Obligations.SetDigitWaitsAndWrites := by
  unfold Obligations.SetDigitWaitsAndWrites
  intro d p v s ds hwf hinv
  refine ⟨fun hf hl => ?enough, fun hf hl => ?short, fun hf => ?faulted⟩
  case enough =>
    obtain ⟨t, ht, htinv, htflt, htleft⟩ := engineRun_within hinv hl.le
    have hidle : t.busy = false := by
      by_contra hb
      exact htinv.busy_iff_stepsLeft.mp (by simpa using hb) (by omega)
    have hready : t.ready = true := (ready_iff t).mpr ⟨hidle, htflt.trans hf⟩
    have hissue : ∀ es, issue (.enc v) (ds ++ es) s =
        .done () ((t.latch (requestWord 7 0 v)).setRes (segEncode v)) es := fun es =>
      (issue_busy (busyUntil_of_engineRun hinv.busy_or_idle ht) ht hready (.enc v) es).trans
        (issue_completes hready (exec_enc hready v) (by simpa using hidle) es)
    exact ⟨t, _, _, ht, hready, exec_enc hready v, fun es => setDigit_of_issue (hissue es), rfl,
      Memory.read_write_same _ _ _ hwf.1, fun j hj => Memory.read_write_other _ _ _ _ hj⟩
  case short =>
    obtain ⟨t, ht, htinv, -, htleft⟩ := engineRun_within hinv hl.le
    have hb : t.busy = true := htinv.busy_iff_stepsLeft.mpr (by omega)
    exact ⟨t, ht, hb, setDigit_of_presenting
      (issue_short (busyUntil_of_engineRun hinv.busy_or_idle ht) ht hb (.enc v))⟩
  case faulted =>
    have hb : s.busy = false := Bool.eq_false_iff.mpr fun hb => hf (hinv.busyFlt hb)
    exact setDigit_of_presenting (issue_faulted hb hf (.enc v) ds)

end Sys2Proof.Machine
end

section
/-! SUPPORT. SETTIMER: the four digits encoded one after another, the cells they are written to, and what the
cells read back as (43_host_sequences.md R136). -/

namespace Sys2Proof.Machine

/-- ENC of several values on a ready block answers their encodings and writes `RES` and `IR` only. -/
theorem encodeAll_ready {s : State} (hr : s.ready = true) (vs : List Byte) (ds : List Bool) :
    ∃ t, encodeAll vs ds s = .done (vs.map segEncode) t ds ∧ t = { s with ir := t.ir, res := t.res } := by
  induction vs generalizing s with
  | nil => exact ⟨s, rfl, rfl⟩
  | cons v vs ih =>
    obtain ⟨hb, -⟩ := (ready_iff s).mp hr
    obtain ⟨t, ht, hframe⟩ := ih (s := (s.latch (requestWord 7 0 v)).setRes (segEncode v)) (by simpa using hr)
    refine ⟨t, ?_, hframe⟩
    rw [encodeAll, issue_completes hr (exec_enc hr v) (by simpa using hb), done_andThen, ht]
    rfl

/-- The cells of SETTIMER (R136). -/
def timerCells : List Nat := [8, 10, 12, 14]

/-- What SETTIMER writes to each of its cells for `z` seconds when the four results are `g` (R136). -/
def timerByte (z : Nat) (g : List Byte) : Nat → Byte
  | 8 => g.getD 0 0
  | 10 => g.getD 1 0 ||| (if z % 60 % 10 % 2 = 0 then 0x80 else 0x00)
  | 12 => g.getD 2 0
  | _ => g.getD 3 0

theorem Driver.writeTimer_eq (d : Driver) (z : Nat) (g : List Byte) :
    d.writeTimer z g =
      { d with db := timerCells.foldl (fun c j => Memory.write c j (timerByte z g j)) d.db } := rfl

/-- Values written to the timer cells are read back there, and the other cells stay. -/
theorem read_timerCells {m : List Host.Cell} (hm : Memory.wf m) (val : Nat → Byte) (j : Nat) :
    Memory.read (timerCells.foldl (fun c j => Memory.write c j (val j)) m) j =
      if j ∈ timerCells then val j else Memory.read m j := by
  split
  case isTrue hj => exact Memory.read_foldl_write_same (cell := id) (by decide) (by decide) hj hm
  case isFalse hj => exact Memory.read_foldl_write_other (cell := id) (by simpa using hj) m

/-- A digit's table byte, with the point or without it, reads back as that digit (R114). -/
theorem glyphOf_segByte_point : ∀ (d : Nibble) (p : Bool),
    glyphOf (segByte d ||| (if p then 0x80 else 0x00)) = .digit d p := by decide

theorem glyphOf_segByte (d : Nibble) : glyphOf (segByte d) = .digit d false := by
  simpa using glyphOf_segByte_point d false

/-- ENC of a number below 16 answers the table byte of that digit (R112). -/
theorem segEncode_ofNat {n : Nat} (hn : n < 16) :
    segEncode (BitVec.ofNat 8 n) = segByte (BitVec.ofNat 4 n) := by
  rw [← segEncode_digit]
  congr 1
  apply BitVec.eq_of_toNat_eq
  simp
  omega

/-- The results of SETTIMER's four ENC for a time below 6000 seconds: the table bytes of its digits. -/
theorem map_segEncode_timerDigits {z : Nat} (hz : z < 6000) :
    ((timerDigits z).map (BitVec.ofNat 8)).map segEncode =
      [segByte (BitVec.ofNat 4 (z / 60 / 10)), segByte (BitVec.ofNat 4 (z / 60 % 10)),
        segByte (BitVec.ofNat 4 (z % 60 / 10)), segByte (BitVec.ofNat 4 (z % 60 % 10))] := by
  simp only [timerDigits, List.map_cons, List.map_nil]
  rw [segEncode_ofNat (by omega), segEncode_ofNat (by omega), segEncode_ofNat (by omega),
    segEncode_ofNat (by omega)]

/-- SETTIMER from 0 to 5999 seconds on a ready block (R136). -/
theorem setTimer_ready (d : Driver) {s : State} (hr : s.ready = true) (ds : List Bool) {z : Nat}
    (hz : z < 6000) :
    ∃ t, d.setTimer z ds s =
        some (.done (d.writeTimer z (((timerDigits z).map (BitVec.ofNat 8)).map segEncode)) t ds) ∧
      t = { s with ir := t.ir, res := t.res } := by
  obtain ⟨t, ht, hframe⟩ := encodeAll_ready hr ((timerDigits z).map (BitVec.ofNat 8)) ds
  refine ⟨t, ?_, hframe⟩
  rw [Driver.setTimer, if_neg (by omega), if_pos (by omega), Int.toNat_natCast, ht]
  rfl

/-- SETTIMER of a negative time blanks its cells (R136). -/
theorem setTimer_negative (d : Driver) {z : Int} (hz : z < 0) (ds : List Bool) (s : State) :
    d.setTimer z ds s =
      some (.done { d with db := timerCells.foldl (fun c j => Memory.write c j 0x00) d.db } s ds) :=
  if_pos hz

theorem not_mem_timerCells {j : Nat} (h8 : j ≠ 8) (h10 : j ≠ 10) (h12 : j ≠ 12) (h14 : j ≠ 14) :
    j ∉ timerCells := by
  simp [timerCells, h8, h10, h12, h14]

/-- Settles O58: the four cells hold the table bytes of the digits, or 0x00. -/
theorem setTimerReadsBack : Obligations.SetTimerReadsBack := by
  unfold Obligations.SetTimerReadsBack
  intro d s ds hwf hr
  refine ⟨fun z hz => ?time, fun z hz => ?negative, fun z hz => ?above⟩
  case time =>
    obtain ⟨t, ht, hframe⟩ := setTimer_ready d hr ds hz
    refine ⟨_, t, ht, hframe, rfl, ?_⟩
    simp only [Driver.writeTimer_eq, read_timerCells hwf, map_segEncode_timerDigits hz]
    refine ⟨glyphOf_segByte _, ?_, glyphOf_segByte _, glyphOf_segByte _,
      fun j h8 h10 h12 h14 => if_neg (not_mem_timerCells h8 h10 h12 h14)⟩
    have hpoint := glyphOf_segByte_point (BitVec.ofNat 4 (z / 60 % 10)) (z % 60 % 10 % 2 == 0)
    simp only [beq_iff_eq] at hpoint
    exact hpoint
  case negative =>
    refine ⟨_, setTimer_negative d hz ds s, rfl, ?_⟩
    simp only [read_timerCells hwf fun _ => 0x00]
    exact ⟨rfl, rfl, rfl, rfl, fun j h8 h10 h12 h14 => if_neg (not_mem_timerCells h8 h10 h12 h14)⟩
  case above => rw [Driver.setTimer, if_neg (by omega), if_neg (by omega)]

end Sys2Proof.Machine
end

section
/-! SUPPORT. FLUSH: the image with its dark cells, the 16 LDP that load it, and the SBULK that sends it
(43_host_sequences.md R137). -/

namespace Sys2Proof.Machine

/-! ### The image -/

/-- The cells that the FlashMask darkens. -/
def Driver.darkBits (d : Driver) : List Nat := (List.range 8).filter fun i => d.fm.getLsbD i

/-- In an even half-period the dark cells are overwritten one after another. -/
theorem Driver.image_of_even (d : Driver) {now : Nat} (h : now / 500 % 2 = 0) :
    d.image now = d.darkBits.foldl (fun c i => Memory.write c (ledCell i) 0x00) d.db := by
  rw [Driver.darkBits, List.foldl_filter]
  exact if_pos h

/-- In an odd half-period the image is the buffer. -/
theorem Driver.image_of_odd (d : Driver) {now : Nat} (h : ¬ now / 500 % 2 = 0) : d.image now = d.db :=
  if_neg h

theorem Driver.mem_darkBits {d : Driver} {i : Nat} : i ∈ d.darkBits ↔ i < 8 ∧ d.fm.getLsbD i = true := by
  simp [Driver.darkBits]

/-- Of the LED cells exactly those of the dark bits are written. -/
theorem Driver.ledCell_mem_iff {d : Driver} {i : Nat} (hi : i < 8) :
    ledCell i ∈ d.darkBits.map ledCell ↔ d.fm.getLsbD i = true := by
  constructor
  · intro h
    obtain ⟨k, hk, heq⟩ := List.mem_map.mp h
    obtain ⟨hk8, hbit⟩ := Driver.mem_darkBits.mp hk
    obtain rfl : k = i := by
      unfold ledCell at heq
      omega
    exact hbit
  · exact fun hbit => List.mem_map_of_mem (Driver.mem_darkBits.mpr ⟨hi, hbit⟩)

/-- The LED cells of the image (R137). -/
theorem Driver.read_image_led (d : Driver) (now : Nat) (hwf : Memory.wf d.db) {i : Nat} (hi : i < 8) :
    Memory.read (d.image now) (ledCell i) =
      if now / 500 % 2 = 0 ∧ d.fm.getLsbD i = true then 0x00 else Memory.read d.db (ledCell i) := by
  by_cases heven : now / 500 % 2 = 0
  · rw [d.image_of_even heven]
    by_cases hbit : d.fm.getLsbD i = true
    · rw [if_pos ⟨heven, hbit⟩]
      exact Memory.read_foldl_write_same (val := fun _ => 0x00)
        (fun k hk => ledCell_lt k (List.mem_of_mem_filter hk))
        (ledCells_nodup.sublist (List.filter_sublist.map ledCell)) (Driver.mem_darkBits.mpr ⟨hi, hbit⟩) hwf
    · rw [if_neg fun h => hbit h.2]
      exact Memory.read_foldl_write_other (val := fun _ => 0x00)
        (mt (Driver.ledCell_mem_iff hi).mp hbit) d.db
  · rw [d.image_of_odd heven, if_neg fun h => heven h.1]

/-- The other cells of the image (R137). -/
theorem Driver.read_image_even (d : Driver) (now : Nat) {j : Nat} (hj : j % 2 = 0) :
    Memory.read (d.image now) j = Memory.read d.db j := by
  by_cases heven : now / 500 % 2 = 0
  · rw [d.image_of_even heven]
    exact Memory.read_foldl_write_other (val := fun _ => 0x00)
      (fun h => even_not_mem_ledCells hj ((List.filter_sublist.map ledCell).subset h)) d.db
  · rw [d.image_of_odd heven]

/-! ### The requests -/

/-- A ready block latches the word of LDP and stores the cell (R85). -/
theorem exec_ldp {s : State} (hr : s.ready = true) (x : Nibble) (v : Byte) :
    exec (.ldp x v) s = .next ((s.latch (requestWord 3 x v)).storeCell x v) :=
  accept_ready (b := false) (f := fun t => t.storeCell x v) hr nofun

/-- LDP of several cells on a ready block stores them one after another and writes `IR` and the payload only. -/
theorem issueAll_ldp (val : Nat → Byte) {l : List Nat} (hl : ∀ j ∈ l, j < 16) {s : State} (hinv : s.Inv)
    (hr : s.ready = true) (ds : List Bool) :
    ∃ t, issueAll (l.map fun j => .ldp (BitVec.ofNat 4 j) (val j)) ds s = .done () t ds ∧ t.Inv ∧
      t = { s with ir := t.ir, pay := t.pay } ∧
      t.pay = l.foldl (fun m j => Memory.write m j (val j)) s.pay := by
  induction l generalizing s with
  | nil => exact ⟨s, rfl, hinv, rfl, rfl⟩
  | cons j l ih =>
    obtain ⟨hj, hl⟩ := List.forall_mem_cons.mp hl
    obtain ⟨hb, hseq, hlines⟩ := hinv.idle_of_ready hr
    have hx := exec_ldp hr (BitVec.ofNat 4 j) (val j)
    have hcell : (BitVec.ofNat 4 j).toNat = j := by simp; omega
    obtain ⟨t, ht, htinv, hframe, hpay⟩ := ih hl
      (s := (s.latch (requestWord 3 (BitVec.ofNat 4 j) (val j))).storeCell (BitVec.ofNat 4 j) (val j))
      (.of_idle (Memory.wf_write _ (BitVec.isLt _) hinv.payOk) hb hseq hlines hinv.cfgLow) (by simpa using hr)
    refine ⟨t, ?_, htinv, hframe, ?_⟩
    · rw [List.map_cons, issueAll, issue_completes hr hx (by simpa using hb), done_andThen, ht]
    · rw [hpay, storeCell_pay, hcell]
      rfl

/-- Values loaded into the 16 cells are read back there. -/
theorem read_loaded {m : List Host.Cell} (hm : Memory.wf m) (val : Nat → Byte) {j : Nat} (hj : j < 16) :
    Memory.read ((List.range 16).foldl (fun m j => Memory.write m j (val j)) m) j = val j :=
  Memory.read_foldl_write_same (cell := id) (fun _ hk => List.mem_range.mp hk)
    (by rw [List.map_id]; exact List.nodup_range) (List.mem_range.mpr hj) hm

/-- FLUSH is the loads of the image and one bulk write of all cells (R137). -/
theorem Driver.flush_eq (d : Driver) (now : Nat) (ds : List Bool) (s : State) :
    d.flush now ds s =
      (issueAll ((List.range 16).map fun j => .ldp (BitVec.ofNat 4 j) (Memory.read (d.image now) j)) ds
        s).andThen fun _ t rest => (issue (.sbulk 0 16) rest t).andThen fun _ u rest' => .done () u rest' :=
  issueAll_append _ _ ds s

/-- The bytes of the SBULK that FLUSH issues: the command, the address and the 16 cells (R89, R137). -/
def flushBytes (pay : List Host.Cell) : List Byte :=
  [0x40, 0xC0] ++ (List.range 16).map fun j => Memory.read pay j

/-- The bulk write of all cells, issued with the levels of its transaction. -/
theorem issue_sbulk_all {s : State} (hinv : s.Inv) (hr : s.ready = true) (hc : s.cfg = true)
    {ds : List Bool} (hl : ds.length = 290) :
    issue (.sbulk 0 16) ds s = .done ()
      { s with
        ir := 0x4010
        dioOut := ((flushBytes s.pay).getLastD 0).getLsbD 7
        trace := s.trace ++
          (⟨false, true, true, s.dioOut, none⟩ :: (flushBytes s.pay).flatMap txEntries) ++
          [⟨true, true, true, ((flushBytes s.pay).getLastD 0).getLsbD 7, none⟩] } [] := by
  obtain ⟨hb, -⟩ := (ready_iff s).mp hr
  have hsend := bulkWriteTransaction 0 16 s ds hinv hr hc (by decide) hl
  have hissue := issue_transaction hr (exec_sbulk 0 (n := 16) (by decide) hr hc) rfl hsend hb []
  rw [List.append_nil] at hissue
  exact hissue

theorem flushBytes_congr {pay image : List Host.Cell}
    (h : ∀ j, j < 16 → Memory.read pay j = Memory.read image j) : flushBytes pay = flushBytes image :=
  congrArg ([0x40, 0xC0] ++ ·) (List.map_congr_left fun j hj => h j (List.mem_range.mp hj))

/-- Settles O59: the loads leave a ready block whose payload reads as the image, which the bulk write sends. -/
theorem flushSendsImage : Obligations.FlushSendsImage := by
  unfold Obligations.FlushSendsImage
  intro d now hwf
  refine ⟨fun i hi => d.read_image_led now hwf hi, fun j hj => d.read_image_even now hj,
    fun s ds hinv hr hc hl => ?_⟩
  obtain ⟨t, ht, htinv, hframe, hpay⟩ := issueAll_ldp (Memory.read (d.image now)) (l := List.range 16)
    (fun j hj => List.mem_range.mp hj) hinv hr ds
  have hread : ∀ j, j < 16 → Memory.read t.pay j = Memory.read (d.image now) j := fun j hj => by
    rw [hpay, read_loaded hinv.payOk (Memory.read (d.image now)) hj]
  have htr : t.ready = true := by rw [hframe]; exact hr
  have htc : t.cfg = true := by rw [hframe]; exact hc
  have hsend := issue_sbulk_all htinv htr htc hl
  rw [flushBytes_congr hread] at hsend
  rw [d.flush_eq, ht, done_andThen, hsend, done_andThen]
  refine ⟨_, rfl, hread, ?_⟩
  rw [hframe]
  rfl

end Sys2Proof.Machine
end
